-- ==== Sys2Proof/Word.lean ====
section
/-!
DEFINITION. The units of data the spec names: a bit, a byte, a 16-bit word, a hex digit's value, and the
Bitstream (00_scope.md R9; 20_memory.md R61, R66, R67, R68).
-/
namespace Sys2Proof

/-- One bit: `true` is 1, `false` is 0. -/
abbrev Bit := Bool

/-- One byte of the SVF text, of an input reader or of a byte string (20_memory.md R60, R66). -/
abbrev Byte := BitVec 8

/-- One word of a word string (20_memory.md R67). -/
abbrev Word := BitVec 16

/-- The value of one hex digit (20_memory.md R68). -/
abbrev Nibble := BitVec 4

/-- A Bitstream (40_bitstream.md R130): its bits in index order, the head of the list being index 0, the
least significant and first bit (20_memory.md R61). Its length is the list's; storage words and padding are no
part of the value. -/
abbrev Bitstream := List Bit

end Sys2Proof
end

