-- ==== Sys2Proof/Syntax.lean ====
section
/-!
DEFINITION. The instructions: one constructor of `Instr` for each of the 56 rows of spec/opcode_table.json, in
the table's order, and the operand types they use (30_encoding.md R90, R92, R102 to R108).
-/
namespace Sys2Proof

/-- The 16 TAP states, in the order of 30_encoding.md R90. -/
inductive TapState where
  | testLogicReset | runTestIdle | selectDRScan | selectIRScan
  | captureDR | captureIR | shiftDR | shiftIR
  | exit1DR | exit1IR | pauseDR | pauseIR
  | exit2DR | exit2IR | updateDR | updateIR
deriving DecidableEq, Repr

/-- A state operand of the operation interface: a TAP state or the sentinel `Invalid` (30_encoding.md R90,
R111), which every operation that receives it answers with a fault (41_tap.md R190). -/
inductive StateOperand where
  | state (s : TapState)
  | invalid
deriving DecidableEq, Repr

/-- A token of an SVF command (30_encoding.md R97, R98): a run of token bytes, a closed parenthesised token
(`inside` is what stands between the parentheses), or a `(` that no `)` follows before the command ends. -/
inductive Token where
  | word (bytes : List Byte)
  | paren (inside : List Byte)
  | unclosed (inside : List Byte)
deriving DecidableEq, Repr

/-- The scan fields that have no effect (30_encoding.md R108). -/
inductive OptField where
  | tdo | mask | smask
deriving DecidableEq, Repr

/-- The optional scan fields of a command as they are written, each with the hex digits of its field. -/
abbrev OptFields := List (OptField × List Nibble)

/-- The instructions: the 42 operations and the 14 SVF commands. An in-out Bitstream operand (`resize`,
`set_bit`, `set_bits`, `shift_right`, `reverse`, `recv`) and an input reader carry the value the caller passes;
what the operation leaves in them is in the state's `holder` and `reader` (log entry 3). -/
inductive Instr where
  -- Bitstream (40_bitstream.md)
  | new (n : Nat)
  | length (b : Bitstream)
  | resize (b : Bitstream) (m : Nat)
  | get (b : Bitstream) (i : Nat)
  | setBit (b : Bitstream) (i : Nat) (v : Bit)
  | setBits (b : Bitstream) (i : Nat) (seq : List Bit)
  | xor (a b : Bitstream)
  | concat (a b : Bitstream)
  | shiftRight (b : Bitstream) (k : Nat)
  | reverse (b : Bitstream)
  | equal (a b : Bitstream)
  | toHexString (b : Bitstream)
  | fromHexString (n : Nat) (s : List Byte)
  | toCharString (b : Bitstream)
  | fromCharString (n : Nat) (bytes : List Byte)
  | toWordString (b : Bitstream)
  | fromWordString (n : Nat) (words : List Word)
  | fromHexStream (n : Nat) (reader : List Byte) (reverseBits : Bit)
  | fromCharStream (n : Nat) (reader : List Byte) (reverseBits : Bit)
  | toString (b : Bitstream)
  | fromString (s : List Byte)
  -- TAP (41_tap.md)
  | nextState (s : StateOperand) (t : Bit)
  | pathOf (source target : StateOperand)
  | gotoNextState (target : StateOperand)
  | gotoState (target : StateOperand)
  | goThruTapSequence (seq : List StateOperand)
  | updateState (n : Nat)
  | initTap
  | pathsOk
  -- scan engine (42_scan.md)
  | setTck (v : Bit)
  | getTck
  | pulseTck (n : Nat)
  | setTms (v : Bit)
  | getTms
  | setTdi (v : Bit)
  | getTdi
  | getTdo
  | sendRecvBitstream (send recv : Bitstream) (goToExit : Bit)
  | loadIrThenDr (instruction send recv : Bitstream)
  -- device chain (43_chain.md)
  | getNumberOfDevices
  | getIdcodes
  -- SVF (44_svf.md)
  | svfRun (text : List Byte)
  | trst (operands : List Token)
  | pio (operands : List Token)
  | piomap (operands : List Token)
  | frequency (operands : List Token)
  | endir (s : TapState)
  | enddr (s : TapState)
  | state (first : TapState) (rest : List TapState)
  | hir (n : Nat) (tdi : Option (List Nibble)) (others : OptFields)
  | hdr (n : Nat) (tdi : Option (List Nibble)) (others : OptFields)
  | tir (n : Nat) (tdi : Option (List Nibble)) (others : OptFields)
  | tdr (n : Nat) (tdi : Option (List Nibble)) (others : OptFields)
  | sir (n : Nat) (tdi : List Nibble) (others : OptFields)
  | sdr (n : Nat) (tdi : List Nibble) (others : OptFields)
  | runtest (n : Nat)
deriving DecidableEq, Repr

end Sys2Proof
end

