-- ==== Sys2Proof/Config.lean ====
section
/-!
DEFINITION. What an implementation fixes and what the spec leaves free: the OPEN parameters of 00_scope.md R7
and the answers of the environment. The operations take them as one argument of type `Params` (R7: "A model
takes every OPEN one as an argument"); the machine runs with `Config.actual`, whose parts are constants without
a body, so that nothing can be proved of their values.
-/
namespace Sys2Proof

/-- What becomes of TDO, MASK and SMASK fields (00_scope.md R7, 30_encoding.md R108). -/
inductive OptionalFields where
  | ignore | reject
deriving DecidableEq, Repr, Inhabited

/-- The levels of the transport's three pins (10_state.md R43). -/
structure Pins where
  tck : Bit
  tms : Bit
  tdi : Bit
deriving DecidableEq, Repr

/-- One TCK pulse as the chain sees and answers it (42_scan.md R221). -/
structure PulseEvent where
  tms : Bit
  tdi : Bit
  tdo : Bit
deriving DecidableEq, Repr

/-- What the block can ask of its environment. A list of these is what a free value may depend on, besides the
pins and the trace: it makes every draw a fresh one (log entry 8). -/
inductive Access where
  | setTck (v : Bit)
  | setTms (v : Bit)
  | setTdi (v : Bit)
  | pulse
  | readTdo
  | poll
  | padding
deriving DecidableEq, Repr

/-- The parameters and the environment's answers. -/
structure Params where
  /-- One less than `MAX_CHAIN_DEVICES` (N >= 1, 00_scope.md R7). -/
  maxChainDevicesPred : Nat
  /-- One less than `MAX_IR_BITS` (>= 1, 00_scope.md R7). -/
  maxIrBitsPred : Nat
  /-- `SVF_OPTIONAL_FIELDS` (00_scope.md R7). -/
  optionalFields : OptionalFields
  /-- The TDO level the chain presents (42_scan.md R222). -/
  tdo : Pins → List PulseEvent → List Access → Bit
  /-- The cancellation flag as the poll after this one will read it (60_exceptions.md R343). -/
  cancel : Pins → List PulseEvent → List Access → Bit
  /-- The padding bit at an index of the last unit of a serialised Bitstream (40_bitstream.md R143). -/
  padding : List Access → Bitstream → Nat → Bit

/-- `MAX_CHAIN_DEVICES` (00_scope.md R7). -/
def Params.maxChainDevices (c : Params) : Nat := c.maxChainDevicesPred + 1

/-- `MAX_IR_BITS` (00_scope.md R7). -/
def Params.maxIrBits (c : Params) : Nat := c.maxIrBitsPred + 1

/-- OPEN (00_scope.md R7, U7; log entry 9). -/
opaque Config.maxChainDevicesPred : Nat

/-- OPEN (00_scope.md R7, U8; log entry 9). -/
opaque Config.maxIrBitsPred : Nat

/-- OPEN (00_scope.md R7, U9; log entry 9). -/
opaque Config.optionalFields : OptionalFields

/-- Any value (42_scan.md R222, U11; log entry 4). -/
opaque Config.tdo : Pins → List PulseEvent → List Access → Bit

/-- Any value (60_exceptions.md R343, U12; log entry 5). -/
opaque Config.cancel : Pins → List PulseEvent → List Access → Bit

/-- Any value (40_bitstream.md R143, U2; log entry 7). -/
opaque Config.padding : List Access → Bitstream → Nat → Bit

/-- The TCK level at reset, any value (10_state.md R43, U13; log entry 6). -/
opaque Config.resetTck : Bit

/-- The TMS level at reset, any value (10_state.md R43, U13; log entry 6). -/
opaque Config.resetTms : Bit

/-- The TDI level at reset, any value (10_state.md R43, U13; log entry 6). -/
opaque Config.resetTdi : Bit

/-- What the first cancellation poll answers, any value (U12; log entry 5). -/
opaque Config.resetCancel : Bit

/-- The parameters and the environment the machine runs with. -/
def Config.actual : Params where
  maxChainDevicesPred := Config.maxChainDevicesPred
  maxIrBitsPred := Config.maxIrBitsPred
  optionalFields := Config.optionalFields
  tdo := Config.tdo
  cancel := Config.cancel
  padding := Config.padding

end Sys2Proof
end

