-- ==== Sys2Proof/Decode.lean ====
section
/-!
DEFINITION. The encodings of 30_encoding.md. The SVF text: comment stripping, commands, tokens, operand kinds
and the grammar of every command (R94 to R110), total on any bytes, each malformed text rejected by the name
of its error (60_exceptions.md R331). The operation interface has no byte encoding in the spec (R92): a call is
written as text over the same tokens (log entry 2). After the decoder, the encoder.
-/
namespace Sys2Proof

/-! ## Characters -/

/-- The ASCII byte of a character (30_encoding.md R94). -/
def charByte (c : Char) : Byte := BitVec.ofNat 8 c.toNat

/-- The ASCII bytes of a text. -/
def chars (cs : List Char) : List Byte := cs.map charByte

/-- Whitespace (30_encoding.md R97): space and the bytes 0x09 to 0x0D. -/
def isSpace (b : Byte) : Bool := b == 0x20#8 || (9 ≤ b.toNat && b.toNat ≤ 13)

/-- The `;` that ends a command (30_encoding.md R96). -/
def semicolon : Byte := 0x3B#8

/-- The `(` that starts a parenthesised token (30_encoding.md R98). -/
def openParen : Byte := 0x28#8

/-- The `)` that ends it (30_encoding.md R98). -/
def closeParen : Byte := 0x29#8

/-- The line end (30_encoding.md R94). -/
def lineFeed : Byte := 0x0A#8

/-- The `!` that starts a comment (30_encoding.md R95). -/
def bang : Byte := 0x21#8

/-- Two of these start a comment (30_encoding.md R95). -/
def slash : Byte := 0x2F#8

/-! ## Lexical rules -/

/-- Removes comments from the whole text (30_encoding.md R95): in each line, from the first `//` or `!` up to,
but without, the line feed. `inComment` says whether a comment is running. -/
def stripFrom (inComment : Bool) : List Byte → List Byte
  | [] => []
  | b :: rest =>
    if b = lineFeed then b :: stripFrom false rest
    else if inComment then stripFrom true rest
    else if b = bang || (b == slash && rest.head? == some slash) then stripFrom true rest
    else b :: stripFrom false rest

/-- The text without its comments (30_encoding.md R95). -/
def stripComments (text : List Byte) : List Byte := stripFrom false text

/-- The bytes before the first `;`, and those after it; nothing where there is no `;` (30_encoding.md R96). -/
def splitCommand : List Byte → Option (List Byte × List Byte)
  | [] => none
  | b :: rest =>
    if b = semicolon then some ([], rest)
    else (splitCommand rest).map fun p => (b :: p.1, p.2)

/-- The word token in progress, if any of its bytes have been read; `acc` holds them newest first. -/
def flushWord (acc : List Byte) : List Token := if acc.isEmpty then [] else [.word acc.reverse]

/-- Splits a command into tokens (30_encoding.md R97, R98). `inParen` says whether a parenthesised token is
running and `acc` holds the bytes of the token in progress, newest first. -/
def lexFrom (inParen : Bool) (acc : List Byte) : List Byte → List Token
  | [] => if inParen then [.unclosed acc.reverse] else flushWord acc
  | b :: rest =>
    if inParen then
      if b = closeParen then .paren acc.reverse :: lexFrom false [] rest
      else lexFrom true (b :: acc) rest
    else if b = openParen then flushWord acc ++ lexFrom true [] rest
    else if isSpace b then flushWord acc ++ lexFrom false [] rest
    else lexFrom false (b :: acc) rest

/-- The tokens of a command. -/
def lex (command : List Byte) : List Token := lexFrom false [] command

/-- The text of a token as an error reports it (60_exceptions.md R332); nothing for a token that has no end
(log entry 13). -/
def Token.text : Token → List Byte
  | .word bytes => bytes
  | .paren inside => openParen :: inside ++ [closeParen]
  | .unclosed _ => []

/-- The keyword an error reports: the first token of the bytes, the empty text where there is none
(44_svf.md R272, R273). -/
def firstTokenText (bytes : List Byte) : List Byte :=
  match lex bytes with
  | [] => []
  | t :: _ => t.text

/-! ## Operand kinds -/

/-- The value of a hex digit, upper or lower case (20_memory.md R68). -/
def hexDigit? (b : Byte) : Option Nibble :=
  let v := b.toNat
  if 0x30 ≤ v && v ≤ 0x39 then some (BitVec.ofNat 4 (v - 0x30))
  else if 0x41 ≤ v && v ≤ 0x46 then some (BitVec.ofNat 4 (v - 0x37))
  else if 0x61 ≤ v && v ≤ 0x66 then some (BitVec.ofNat 4 (v - 0x57))
  else none

/-- The upper-case character of a hex digit (40_bitstream.md R144, D8). -/
def hexDigitByte (d : Nibble) : Byte :=
  BitVec.ofNat 8 (if d.toNat < 10 then d.toNat + 0x30 else d.toNat + 0x37)

/-- The hex digits of a text in order, every other byte skipped (30_encoding.md R105, 40_bitstream.md R145). -/
def hexDigits (text : List Byte) : List Nibble := text.filterMap hexDigit?

/-- The value of a decimal digit. -/
def decimalDigit? (b : Byte) : Option Nat :=
  if 0x30 ≤ b.toNat && b.toNat ≤ 0x39 then some (b.toNat - 0x30) else none

/-- The number a digit string stands for, after the digits `value` has taken in. -/
def decimalFrom (value : Nat) : List Byte → Option Nat
  | [] => some value
  | b :: rest => (decimalDigit? b).bind fun d => decimalFrom (10 * value + d) rest

/-- A decimal natural: one or more digits and nothing else (30_encoding.md R104). -/
def nat? : Token → Option Nat
  | .word (b :: rest) => decimalFrom 0 (b :: rest)
  | _ => none

/-- `NUMERIC_FIELD_MAX` (00_scope.md R7). -/
def numericFieldMax : Nat := 2147483647

/-- An SVF number (30_encoding.md R104). -/
def svfNumber? (t : Token) : Option Nat :=
  (nat? t).bind fun n => if n ≤ numericFieldMax then some n else none

/-- The 16 states in the order of their codes (30_encoding.md R90). -/
def TapState.all : List TapState :=
  [.testLogicReset, .runTestIdle, .selectDRScan, .selectIRScan, .captureDR, .captureIR, .shiftDR, .shiftIR] ++
  [.exit1DR, .exit1IR, .pauseDR, .pauseIR, .exit2DR, .exit2IR, .updateDR, .updateIR]

/-- The code of a state (30_encoding.md R90). -/
def TapState.code : TapState → Nat
  | .testLogicReset => 0
  | .runTestIdle => 1
  | .selectDRScan => 2
  | .selectIRScan => 3
  | .captureDR => 4
  | .captureIR => 5
  | .shiftDR => 6
  | .shiftIR => 7
  | .exit1DR => 8
  | .exit1IR => 9
  | .pauseDR => 10
  | .pauseIR => 11
  | .exit2DR => 12
  | .exit2IR => 13
  | .updateDR => 14
  | .updateIR => 15

/-- The SVF name of a state (30_encoding.md R90). -/
def TapState.svfName : TapState → List Byte
  | .testLogicReset => chars ['R', 'E', 'S', 'E', 'T']
  | .runTestIdle => chars ['I', 'D', 'L', 'E']
  | .selectDRScan => chars ['D', 'R', 'S', 'E', 'L', 'E', 'C', 'T']
  | .selectIRScan => chars ['I', 'R', 'S', 'E', 'L', 'E', 'C', 'T']
  | .captureDR => chars ['D', 'R', 'C', 'A', 'P', 'T', 'U', 'R', 'E']
  | .captureIR => chars ['I', 'R', 'C', 'A', 'P', 'T', 'U', 'R', 'E']
  | .shiftDR => chars ['D', 'R', 'S', 'H', 'I', 'F', 'T']
  | .shiftIR => chars ['I', 'R', 'S', 'H', 'I', 'F', 'T']
  | .exit1DR => chars ['D', 'R', 'E', 'X', 'I', 'T', '1']
  | .exit1IR => chars ['I', 'R', 'E', 'X', 'I', 'T', '1']
  | .pauseDR => chars ['D', 'R', 'P', 'A', 'U', 'S', 'E']
  | .pauseIR => chars ['I', 'R', 'P', 'A', 'U', 'S', 'E']
  | .exit2DR => chars ['D', 'R', 'E', 'X', 'I', 'T', '2']
  | .exit2IR => chars ['I', 'R', 'E', 'X', 'I', 'T', '2']
  | .updateDR => chars ['D', 'R', 'U', 'P', 'D', 'A', 'T', 'E']
  | .updateIR => chars ['I', 'R', 'U', 'P', 'D', 'A', 'T', 'E']

/-- The state a code stands for; 16 is `Invalid` (30_encoding.md R90). -/
def stateOperand? (t : Token) : Option StateOperand :=
  (nat? t).bind fun n =>
    if n = 16 then some .invalid else (TapState.all.find? fun s => s.code == n).map .state

/-- A state name, spelled exactly (30_encoding.md R106). -/
def stateName? : Token → Option TapState
  | .word w => TapState.all.find? fun s => s.svfName == w
  | _ => none

/-- The scan field names (30_encoding.md R102, R108): `none` is TDI. -/
def fieldName? (w : List Byte) : Option (Option OptField) :=
  if w = chars ['T', 'D', 'I'] then some none
  else if w = chars ['T', 'D', 'O'] then some (some .tdo)
  else if w = chars ['M', 'A', 'S', 'K'] then some (some .mask)
  else if w = chars ['S', 'M', 'A', 'S', 'K'] then some (some .smask)
  else none

/-! ## SVF commands -/

/-- The malformed-input errors an SVF stream can end in (60_exceptions.md R331). -/
inductive SvfError where
  | unknownCommand | badNumber | missingField | badStateName | badHexField | unexpectedToken
  | emptyCommand | unterminatedCommand | duplicateField | rejectedField
deriving DecidableEq, Repr

/-- The 14 command keywords (30_encoding.md R107). -/
inductive SvfKeyword where
  | trst | pio | piomap | frequency | endir | enddr | state
  | hir | hdr | tir | tdr | sir | sdr | runtest
deriving DecidableEq, Repr

/-- The keywords in the table's order. -/
def SvfKeyword.all : List SvfKeyword :=
  [.trst, .pio, .piomap, .frequency, .endir, .enddr, .state] ++
  [.hir, .hdr, .tir, .tdr, .sir, .sdr, .runtest]

/-- The keyword as it must appear (30_encoding.md R99, R113). -/
def SvfKeyword.text : SvfKeyword → List Byte
  | .trst => chars ['T', 'R', 'S', 'T']
  | .pio => chars ['P', 'I', 'O']
  | .piomap => chars ['P', 'I', 'O', 'M', 'A', 'P']
  | .frequency => chars ['F', 'R', 'E', 'Q', 'U', 'E', 'N', 'C', 'Y']
  | .endir => chars ['E', 'N', 'D', 'I', 'R']
  | .enddr => chars ['E', 'N', 'D', 'D', 'R']
  | .state => chars ['S', 'T', 'A', 'T', 'E']
  | .hir => chars ['H', 'I', 'R']
  | .hdr => chars ['H', 'D', 'R']
  | .tir => chars ['T', 'I', 'R']
  | .tdr => chars ['T', 'D', 'R']
  | .sir => chars ['S', 'I', 'R']
  | .sdr => chars ['S', 'D', 'R']
  | .runtest => chars ['R', 'U', 'N', 'T', 'E', 'S', 'T']

/-- The keyword a first token is, case-sensitive (30_encoding.md R99). -/
def SvfKeyword.ofToken? : Token → Option SvfKeyword
  | .word w => SvfKeyword.all.find? fun k => k.text == w
  | _ => none

/-- The scan fields of a command as read so far. -/
structure ScanFields where
  tdi : Option (List Nibble)
  others : OptFields
deriving DecidableEq, Repr

/-- Whether a field has been read already (30_encoding.md R108). -/
def ScanFields.has (f : ScanFields) : Option OptField → Bool
  | none => f.tdi.isSome
  | some o => f.others.any fun p => p.1 == o

/-- One more field. -/
def ScanFields.add (f : ScanFields) (digits : List Nibble) : Option OptField → ScanFields
  | none => { f with tdi := some digits }
  | some o => { f with others := f.others ++ [(o, digits)] }

/-- A parenthesis that no `)` closes (30_encoding.md R98). -/
def Token.isUnclosed : Token → Bool
  | .unclosed _ => true
  | .word _ => false
  | .paren _ => false

/-- The kind of token a position wants, where the token found is not of that kind: an unclosed parenthesis is
malformed wherever it is reached (30_encoding.md R98, R103; log entry 13). -/
def wrongToken (position : SvfError) : Token → SvfError
  | .unclosed _ => .badHexField
  | _ => position

/-- A scan-field list (30_encoding.md R108), read in token order: the name is checked (is it one, has it been
read, is it rejected), then its hex field (log entry 23). -/
def decodeFields (optional : OptionalFields) : List Token → ScanFields → Except SvfError ScanFields
  | [], f => .ok f
  | .word w :: rest, f =>
    match fieldName? w with
    | none => .error .unexpectedToken
    | some name =>
      if f.has name then .error .duplicateField
      else if name.isSome && optional == .reject then .error .rejectedField
      else
        match rest with
        | [] => .error .missingField
        | .paren h :: rest' => decodeFields optional rest' (f.add (hexDigits h) name)
        | .word _ :: _ => .error .badHexField
        | .unclosed _ :: _ => .error .badHexField
  | t :: _, _ => .error (wrongToken .unexpectedToken t)

/-- No token may be left (30_encoding.md R103). -/
def decodeEnd (i : Instr) : List Token → Except SvfError Instr
  | [] => .ok i
  | t :: _ => .error (wrongToken .unexpectedToken t)

/-- Operands that are not read; the lexical rules still apply to them (30_encoding.md R109). -/
def decodeIgnored (mk : List Token → Instr) (operands : List Token) : Except SvfError Instr :=
  if operands.any Token.isUnclosed then .error .badHexField
  else .ok (mk operands)

/-- One state name and nothing else (30_encoding.md R107). -/
def decodeOneState (mk : TapState → Instr) : List Token → Except SvfError Instr
  | [] => .error .missingField
  | t :: rest =>
    match stateName? t with
    | none => .error (wrongToken .badStateName t)
    | some s => decodeEnd (mk s) rest

/-- State names up to the end of the command. -/
def decodeStates : List Token → Except SvfError (List TapState)
  | [] => .ok []
  | t :: rest =>
    match stateName? t with
    | none => .error (wrongToken .badStateName t)
    | some s => (decodeStates rest).map fun ss => s :: ss

/-- At least one state name (30_encoding.md R107). -/
def decodeStateList (operands : List Token) : Except SvfError Instr :=
  match decodeStates operands with
  | .error e => .error e
  | .ok [] => .error .missingField
  | .ok (s :: ss) => .ok (.state s ss)

/-- A number and a scan-field list (30_encoding.md R107). -/
def decodeNumberAndFields (optional : OptionalFields) : List Token → Except SvfError (Nat × ScanFields)
  | [] => .error .missingField
  | t :: rest =>
    match svfNumber? t with
    | none => .error (wrongToken .badNumber t)
    | some n => (decodeFields optional rest ⟨none, []⟩).map fun f => (n, f)

/-- A header or trailer command: TDI is optional (30_encoding.md R107). -/
def decodeContext (optional : OptionalFields) (mk : Nat → Option (List Nibble) → OptFields → Instr)
    (operands : List Token) : Except SvfError Instr :=
  (decodeNumberAndFields optional operands).map fun p => mk p.1 p.2.tdi p.2.others

/-- A scan command: TDI is required, and missed only after the whole list is read (30_encoding.md R108). -/
def decodeScan (optional : OptionalFields) (mk : Nat → List Nibble → OptFields → Instr)
    (operands : List Token) : Except SvfError Instr :=
  match decodeNumberAndFields optional operands with
  | .error e => .error e
  | .ok (n, f) =>
    match f.tdi with
    | none => .error .missingField
    | some h => .ok (mk n h f.others)

/-- `n TCK` and nothing else (30_encoding.md R107). -/
def decodeRuntest : List Token → Except SvfError Instr
  | [] => .error .missingField
  | t :: rest =>
    match svfNumber? t with
    | none => .error (wrongToken .badNumber t)
    | some n =>
      match rest with
      | [] => .error .missingField
      | k :: rest' =>
        if k = .word (chars ['T', 'C', 'K']) then decodeEnd (.runtest n) rest'
        else .error (wrongToken .unexpectedToken k)

/-- The operands of a command (30_encoding.md R107). -/
def decodeSvfOperands (optional : OptionalFields) (operands : List Token) : SvfKeyword → Except SvfError Instr
  | .trst => decodeIgnored .trst operands
  | .pio => decodeIgnored .pio operands
  | .piomap => decodeIgnored .piomap operands
  | .frequency => decodeIgnored .frequency operands
  | .endir => decodeOneState .endir operands
  | .enddr => decodeOneState .enddr operands
  | .state => decodeStateList operands
  | .hir => decodeContext optional .hir operands
  | .hdr => decodeContext optional .hdr operands
  | .tir => decodeContext optional .tir operands
  | .tdr => decodeContext optional .tdr operands
  | .sir => decodeScan optional .sir operands
  | .sdr => decodeScan optional .sdr operands
  | .runtest => decodeRuntest operands

/-- The tokens of one command (30_encoding.md R98 to R100, R107, R111; 60_exceptions.md R340). -/
def decodeSvfTokens (optional : OptionalFields) : List Token → Except SvfError Instr
  | [] => .error .emptyCommand
  | t :: operands =>
    match SvfKeyword.ofToken? t with
    | none => .error (wrongToken .unknownCommand t)
    | some k => decodeSvfOperands optional operands k

/-- Decodes one command in full: the bytes before its `;`, without comments (30_encoding.md R110). -/
def decodeCommand (optional : OptionalFields) (command : List Byte) : Except SvfError Instr :=
  decodeSvfTokens optional (lex command)

/-! ## Operation calls (log entry 2) -/

/-- The 42 operation names (30_encoding.md R92). -/
inductive OpName where
  | new | length | resize | get | setBit | setBits | xor
  | concat | shiftRight | reverse | equal | toHexString | fromHexString | toCharString
  | fromCharString | toWordString | fromWordString | fromHexStream | fromCharStream | toString | fromString
  | nextState | pathOf | gotoNextState | gotoState | goThruTapSequence | updateState | initTap
  | pathsOk | setTck | getTck | pulseTck | setTms | getTms | setTdi
  | getTdi | getTdo | sendRecvBitstream | loadIrThenDr | getNumberOfDevices | getIdcodes | svfRun
deriving DecidableEq, Repr

/-- The operations in the table's order. -/
def OpName.all : List OpName :=
  [.new, .length, .resize, .get, .setBit, .setBits] ++
  [.xor, .concat, .shiftRight, .reverse, .equal, .toHexString] ++
  [.fromHexString, .toCharString, .fromCharString, .toWordString, .fromWordString, .fromHexStream] ++
  [.fromCharStream, .toString, .fromString, .nextState, .pathOf, .gotoNextState] ++
  [.gotoState, .goThruTapSequence, .updateState, .initTap, .pathsOk, .setTck] ++
  [.getTck, .pulseTck, .setTms, .getTms, .setTdi, .getTdi] ++
  [.getTdo, .sendRecvBitstream, .loadIrThenDr, .getNumberOfDevices, .getIdcodes, .svfRun]

/-- The name that selects an operation (30_encoding.md R92, R113). -/
def OpName.text : OpName → List Byte
  | .new => chars ['n', 'e', 'w']
  | .length => chars ['l', 'e', 'n', 'g', 't', 'h']
  | .resize => chars ['r', 'e', 's', 'i', 'z', 'e']
  | .get => chars ['g', 'e', 't']
  | .setBit => chars ['s', 'e', 't', '_', 'b', 'i', 't']
  | .setBits => chars ['s', 'e', 't', '_', 'b', 'i', 't', 's']
  | .xor => chars ['x', 'o', 'r']
  | .concat => chars ['c', 'o', 'n', 'c', 'a', 't']
  | .shiftRight => chars ['s', 'h', 'i', 'f', 't', '_', 'r', 'i', 'g', 'h', 't']
  | .reverse => chars ['r', 'e', 'v', 'e', 'r', 's', 'e']
  | .equal => chars ['e', 'q', 'u', 'a', 'l']
  | .toHexString => chars ['t', 'o', '_', 'h', 'e', 'x', '_', 's', 't', 'r', 'i', 'n', 'g']
  | .fromHexString => chars ['f', 'r', 'o', 'm', '_', 'h', 'e', 'x', '_', 's', 't', 'r', 'i', 'n', 'g']
  | .toCharString => chars ['t', 'o', '_', 'c', 'h', 'a', 'r', '_', 's', 't', 'r', 'i', 'n', 'g']
  | .fromCharString => chars ['f', 'r', 'o', 'm', '_', 'c', 'h', 'a', 'r', '_', 's', 't', 'r', 'i', 'n', 'g']
  | .toWordString => chars ['t', 'o', '_', 'w', 'o', 'r', 'd', '_', 's', 't', 'r', 'i', 'n', 'g']
  | .fromWordString => chars ['f', 'r', 'o', 'm', '_', 'w', 'o', 'r', 'd', '_', 's', 't', 'r', 'i', 'n', 'g']
  | .fromHexStream => chars ['f', 'r', 'o', 'm', '_', 'h', 'e', 'x', '_', 's', 't', 'r', 'e', 'a', 'm']
  | .fromCharStream => chars ['f', 'r', 'o', 'm', '_', 'c', 'h', 'a', 'r', '_', 's', 't', 'r', 'e', 'a', 'm']
  | .toString => chars ['t', 'o', '_', 's', 't', 'r', 'i', 'n', 'g']
  | .fromString => chars ['f', 'r', 'o', 'm', '_', 's', 't', 'r', 'i', 'n', 'g']
  | .nextState => chars ['n', 'e', 'x', 't', '_', 's', 't', 'a', 't', 'e']
  | .pathOf => chars ['p', 'a', 't', 'h', '_', 'o', 'f']
  | .gotoNextState => chars ['g', 'o', 't', 'o', '_', 'n', 'e', 'x', 't', '_', 's', 't', 'a', 't', 'e']
  | .gotoState => chars ['g', 'o', 't', 'o', '_', 's', 't', 'a', 't', 'e']
  | .goThruTapSequence => chars ['g', 'o', '_', 't', 'h', 'r', 'u', '_', 't', 'a', 'p', '_', 's', 'e', 'q', 'u', 'e', 'n', 'c', 'e']
  | .updateState => chars ['u', 'p', 'd', 'a', 't', 'e', '_', 's', 't', 'a', 't', 'e']
  | .initTap => chars ['i', 'n', 'i', 't', '_', 't', 'a', 'p']
  | .pathsOk => chars ['p', 'a', 't', 'h', 's', '_', 'o', 'k']
  | .setTck => chars ['s', 'e', 't', '_', 't', 'c', 'k']
  | .getTck => chars ['g', 'e', 't', '_', 't', 'c', 'k']
  | .pulseTck => chars ['p', 'u', 'l', 's', 'e', '_', 't', 'c', 'k']
  | .setTms => chars ['s', 'e', 't', '_', 't', 'm', 's']
  | .getTms => chars ['g', 'e', 't', '_', 't', 'm', 's']
  | .setTdi => chars ['s', 'e', 't', '_', 't', 'd', 'i']
  | .getTdi => chars ['g', 'e', 't', '_', 't', 'd', 'i']
  | .getTdo => chars ['g', 'e', 't', '_', 't', 'd', 'o']
  | .sendRecvBitstream => chars ['s', 'e', 'n', 'd', '_', 'r', 'e', 'c', 'v', '_', 'b', 'i', 't', 's', 't', 'r', 'e', 'a', 'm']
  | .loadIrThenDr => chars ['l', 'o', 'a', 'd', '_', 'i', 'r', '_', 't', 'h', 'e', 'n', '_', 'd', 'r']
  | .getNumberOfDevices => chars ['g', 'e', 't', '_', 'n', 'u', 'm', 'b', 'e', 'r', '_', 'o', 'f', '_', 'd', 'e', 'v', 'i', 'c', 'e', 's']
  | .getIdcodes => chars ['g', 'e', 't', '_', 'i', 'd', 'c', 'o', 'd', 'e', 's']
  | .svfRun => chars ['s', 'v', 'f', '_', 'r', 'u', 'n']

/-- The operation a first token names. -/
def OpName.ofToken? : Token → Option OpName
  | .word w => OpName.all.find? fun k => k.text == w
  | _ => none

/-- Why the bytes of a call name no operation call. -/
inductive CallError where
  | unterminated | trailingBytes | empty | unknownOperation | badOperands
deriving DecidableEq, Repr

/-- `0` or `1`. -/
def bitChar? (b : Byte) : Option Bit :=
  if b = 0x30#8 then some false else if b = 0x31#8 then some true else none

/-- The character of a bit. -/
def bitChar (v : Bit) : Byte := if v then 0x31#8 else 0x30#8

/-- A bit operand. -/
def bit? : Token → Option Bit
  | .word [b] => bitChar? b
  | _ => none

/-- A bit for each character; nothing where one is neither `0` nor `1`. -/
def bitChars? : List Byte → Option (List Bit)
  | [] => some []
  | b :: rest => (bitChar? b).bind fun v => (bitChars? rest).map fun vs => v :: vs

/-- A Bitstream operand: its binary text, highest index first, between `<` and `>`; the empty Bitstream is
`<>` (00_scope.md R10, 20_memory.md R69). -/
def bitstream? : Token → Option Bitstream
  | .word (b :: rest) =>
    if b = 0x3C#8 && rest.getLast? == some 0x3E#8 then (bitChars? rest.dropLast).map List.reverse else none
  | _ => none

/-- Bytes written as two hex digits each. -/
def hexPairs? : List Byte → Option (List Byte)
  | [] => some []
  | [_] => none
  | a :: b :: rest =>
    (hexDigit? a).bind fun hi => (hexDigit? b).bind fun lo =>
      (hexPairs? rest).map fun bs => (hi ++ lo) :: bs

/-- A byte string or text operand: two hex digits for each byte, between parentheses. -/
def bytes? : Token → Option (List Byte)
  | .paren inside => hexPairs? inside
  | _ => none

/-- A 16-bit word operand. -/
def word? (t : Token) : Option Word :=
  (nat? t).bind fun n => if n < 65536 then some (BitVec.ofNat 16 n) else none

/-- The rest of the operands, each of one kind. -/
def each? {α : Type} (kind : Token → Option α) : List Token → Option (List α)
  | [] => some []
  | t :: rest => (kind t).bind fun a => (each? kind rest).map fun as => a :: as

/-- The bound of the transport's `u32` counts (42_scan.md R220, R223). -/
def u32Bound : Nat := 4294967296

/-- The operands of a call in the table's order (opcode_table.json). -/
def decodeOpOperands : OpName → List Token → Option Instr
  | .new, [n] => (nat? n).map .new
  | .length, [b] => (bitstream? b).map .length
  | .resize, [b, m] => (bitstream? b).bind fun b => (nat? m).map fun m => .resize b m
  | .get, [b, i] => (bitstream? b).bind fun b => (nat? i).map fun i => .get b i
  | .setBit, [b, i, v] =>
    (bitstream? b).bind fun b => (nat? i).bind fun i => (bit? v).map fun v => .setBit b i v
  | .setBits, b :: i :: seq =>
    (bitstream? b).bind fun b => (nat? i).bind fun i => (each? bit? seq).map fun vs => .setBits b i vs
  | .xor, [a, b] => (bitstream? a).bind fun a => (bitstream? b).map fun b => .xor a b
  | .concat, [a, b] => (bitstream? a).bind fun a => (bitstream? b).map fun b => .concat a b
  | .shiftRight, [b, k] => (bitstream? b).bind fun b => (nat? k).map fun k => .shiftRight b k
  | .reverse, [b] => (bitstream? b).map .reverse
  | .equal, [a, b] => (bitstream? a).bind fun a => (bitstream? b).map fun b => .equal a b
  | .toHexString, [b] => (bitstream? b).map .toHexString
  | .fromHexString, [n, s] => (nat? n).bind fun n => (bytes? s).map fun s => .fromHexString n s
  | .toCharString, [b] => (bitstream? b).map .toCharString
  | .fromCharString, [n, s] => (nat? n).bind fun n => (bytes? s).map fun s => .fromCharString n s
  | .toWordString, [b] => (bitstream? b).map .toWordString
  | .fromWordString, n :: words =>
    (nat? n).bind fun n => (each? word? words).map fun ws => .fromWordString n ws
  | .fromHexStream, [n, s, r] =>
    (nat? n).bind fun n => (bytes? s).bind fun s => (bit? r).map fun r => .fromHexStream n s r
  | .fromCharStream, [n, s, r] =>
    (nat? n).bind fun n => (bytes? s).bind fun s => (bit? r).map fun r => .fromCharStream n s r
  | .toString, [b] => (bitstream? b).map .toString
  | .fromString, [s] => (bytes? s).map .fromString
  | .nextState, [s, t] => (stateOperand? s).bind fun s => (bit? t).map fun t => .nextState s t
  | .pathOf, [a, d] => (stateOperand? a).bind fun a => (stateOperand? d).map fun d => .pathOf a d
  | .gotoNextState, [s] => (stateOperand? s).map .gotoNextState
  | .gotoState, [s] => (stateOperand? s).map .gotoState
  | .goThruTapSequence, seq => (each? stateOperand? seq).map .goThruTapSequence
  | .updateState, [n] => (nat? n).map .updateState
  | .initTap, [] => some .initTap
  | .pathsOk, [] => some .pathsOk
  | .setTck, [v] => (bit? v).map .setTck
  | .getTck, [] => some .getTck
  | .pulseTck, [n] => (nat? n).bind fun n => if n < u32Bound then some (.pulseTck n) else none
  | .setTms, [v] => (bit? v).map .setTms
  | .getTms, [] => some .getTms
  | .setTdi, [v] => (bit? v).map .setTdi
  | .getTdi, [] => some .getTdi
  | .getTdo, [] => some .getTdo
  | .sendRecvBitstream, [a, b, e] =>
    (bitstream? a).bind fun a => (bitstream? b).bind fun b => (bit? e).map fun e => .sendRecvBitstream a b e
  | .loadIrThenDr, [i, a, b] =>
    (bitstream? i).bind fun i => (bitstream? a).bind fun a => (bitstream? b).map fun b => .loadIrThenDr i a b
  | .getNumberOfDevices, [] => some .getNumberOfDevices
  | .getIdcodes, [] => some .getIdcodes
  | .svfRun, [s] => (bytes? s).map .svfRun
  | _, _ => none

/-- The tokens of one call: the name, then the operands. -/
def decodeCallTokens : List Token → Except CallError Instr
  | [] => .error .empty
  | t :: operands =>
    match OpName.ofToken? t with
    | none => .error .unknownOperation
    | some k =>
      match decodeOpOperands k operands with
      | none => .error .badOperands
      | some i => .ok i

/-- Decodes the bytes of one call, up to the `;` that ends it. -/
def decodeCall (bytes : List Byte) : Except CallError Instr :=
  match splitCommand bytes with
  | none => .error .unterminated
  | some (command, rest) => if rest.isEmpty then decodeCallTokens (lex command) else .error .trailingBytes

/-! ## Either kind of instruction -/

/-- Whether a text is an SVF command rather than an operation call: its first token is one of the 14
keywords, none of which is an operation's name. -/
def isSvfText (bytes : List Byte) : Bool :=
  match lex ((stripComments bytes).takeWhile fun b => b != semicolon) with
  | [] => false
  | t :: _ => (SvfKeyword.ofToken? t).isSome

/-- The instruction a text of one instruction holds, `none` where the decoder refuses it. -/
def decodeText (optional : OptionalFields) (bytes : List Byte) : Option Instr :=
  if isSvfText bytes then
    match splitCommand (stripComments bytes) with
    | none => none
    | some (command, rest) => if rest.isEmpty then (decodeCommand optional command).toOption else none
  else (decodeCall bytes).toOption

/-- The bytes of an instruction whose bits are `w`: byte k is bits 8k+7 .. 8k, the first byte the least
significant. -/
def tableBytes (nbits w : Nat) : List Byte :=
  (List.range ((nbits + 7) / 8)).map fun k => BitVec.ofNat 8 (w >>> (8 * k))

/-- The instruction the decoder reads from an instruction whose bits are `w`. -/
def decodeTableWord (nbits w : Nat) : Option Instr :=
  decodeText Config.optionalFields (tableBytes nbits w)

/-! ## The encoder -/

/-- The decimal digits of `n` before `acc`; `fuel` bounds their number. -/
def decimalAux : Nat → Nat → List Byte → List Byte
  | 0, _, acc => acc
  | fuel + 1, n, acc =>
    let acc' := BitVec.ofNat 8 (n % 10 + 0x30) :: acc
    if n < 10 then acc' else decimalAux fuel (n / 10) acc'

/-- The decimal digits of a natural. -/
def decimal (n : Nat) : List Byte := decimalAux (n + 1) n []

/-- A number token. -/
def natToken (n : Nat) : Token := .word (decimal n)

/-- A bit token. -/
def bitToken (v : Bit) : Token := .word [bitChar v]

/-- A Bitstream token. -/
def bitstreamToken (b : Bitstream) : Token := .word (0x3C#8 :: (b.reverse.map bitChar ++ [0x3E#8]))

/-- A byte as two hex digits. -/
def hexPair (b : Byte) : List Byte :=
  [hexDigitByte (b.extractLsb' 4 4), hexDigitByte (b.extractLsb' 0 4)]

/-- A byte string token. -/
def bytesToken (bs : List Byte) : Token := .paren (bs.flatMap hexPair)

/-- A hex field. -/
def hexToken (digits : List Nibble) : Token := .paren (digits.map hexDigitByte)

/-- The code of a state operand. -/
def StateOperand.code : StateOperand → Nat
  | .state s => s.code
  | .invalid => 16

/-- A state operand of a call. -/
def stateToken (s : StateOperand) : Token := natToken s.code

/-- A state name of a command. -/
def stateNameToken (s : TapState) : Token := .word s.svfName

/-- The name of a field that has no effect. -/
def OptField.text : OptField → List Byte
  | .tdo => chars ['T', 'D', 'O']
  | .mask => chars ['M', 'A', 'S', 'K']
  | .smask => chars ['S', 'M', 'A', 'S', 'K']

/-- The TDI field of a command. -/
def tdiTokens (digits : List Nibble) : List Token := [.word (chars ['T', 'D', 'I']), hexToken digits]

/-- The fields that have no effect. -/
def otherTokens (others : OptFields) : List Token :=
  others.flatMap fun p => [.word p.1.text, hexToken p.2]

/-- A scan-field list. -/
def fieldTokens (tdi : Option (List Nibble)) (others : OptFields) : List Token :=
  (match tdi with | none => [] | some h => tdiTokens h) ++ otherTokens others

/-- An operation's name and its operands. -/
def opTokens (k : OpName) (operands : List Token) : List Token := .word k.text :: operands

/-- A command's keyword and its operands. -/
def svfTokens (k : SvfKeyword) (operands : List Token) : List Token := .word k.text :: operands

/-- The tokens of an instruction: its name or keyword, then its operands in the order of opcode_table.json. -/
def encodeTokens : Instr → List Token
  | .new n => opTokens .new [natToken n]
  | .length b => opTokens .length [bitstreamToken b]
  | .resize b m => opTokens .resize [bitstreamToken b, natToken m]
  | .get b i => opTokens .get [bitstreamToken b, natToken i]
  | .setBit b i v => opTokens .setBit [bitstreamToken b, natToken i, bitToken v]
  | .setBits b i seq => opTokens .setBits (bitstreamToken b :: natToken i :: seq.map bitToken)
  | .xor a b => opTokens .xor [bitstreamToken a, bitstreamToken b]
  | .concat a b => opTokens .concat [bitstreamToken a, bitstreamToken b]
  | .shiftRight b k => opTokens .shiftRight [bitstreamToken b, natToken k]
  | .reverse b => opTokens .reverse [bitstreamToken b]
  | .equal a b => opTokens .equal [bitstreamToken a, bitstreamToken b]
  | .toHexString b => opTokens .toHexString [bitstreamToken b]
  | .fromHexString n s => opTokens .fromHexString [natToken n, bytesToken s]
  | .toCharString b => opTokens .toCharString [bitstreamToken b]
  | .fromCharString n s => opTokens .fromCharString [natToken n, bytesToken s]
  | .toWordString b => opTokens .toWordString [bitstreamToken b]
  | .fromWordString n ws => opTokens .fromWordString (natToken n :: ws.map fun w => natToken w.toNat)
  | .fromHexStream n s r => opTokens .fromHexStream [natToken n, bytesToken s, bitToken r]
  | .fromCharStream n s r => opTokens .fromCharStream [natToken n, bytesToken s, bitToken r]
  | .toString b => opTokens .toString [bitstreamToken b]
  | .fromString s => opTokens .fromString [bytesToken s]
  | .nextState s t => opTokens .nextState [stateToken s, bitToken t]
  | .pathOf a d => opTokens .pathOf [stateToken a, stateToken d]
  | .gotoNextState s => opTokens .gotoNextState [stateToken s]
  | .gotoState s => opTokens .gotoState [stateToken s]
  | .goThruTapSequence seq => opTokens .goThruTapSequence (seq.map stateToken)
  | .updateState n => opTokens .updateState [natToken n]
  | .initTap => opTokens .initTap []
  | .pathsOk => opTokens .pathsOk []
  | .setTck v => opTokens .setTck [bitToken v]
  | .getTck => opTokens .getTck []
  | .pulseTck n => opTokens .pulseTck [natToken n]
  | .setTms v => opTokens .setTms [bitToken v]
  | .getTms => opTokens .getTms []
  | .setTdi v => opTokens .setTdi [bitToken v]
  | .getTdi => opTokens .getTdi []
  | .getTdo => opTokens .getTdo []
  | .sendRecvBitstream a b e => opTokens .sendRecvBitstream [bitstreamToken a, bitstreamToken b, bitToken e]
  | .loadIrThenDr i a b => opTokens .loadIrThenDr [bitstreamToken i, bitstreamToken a, bitstreamToken b]
  | .getNumberOfDevices => opTokens .getNumberOfDevices []
  | .getIdcodes => opTokens .getIdcodes []
  | .svfRun s => opTokens .svfRun [bytesToken s]
  | .trst ts => svfTokens .trst ts
  | .pio ts => svfTokens .pio ts
  | .piomap ts => svfTokens .piomap ts
  | .frequency ts => svfTokens .frequency ts
  | .endir s => svfTokens .endir [stateNameToken s]
  | .enddr s => svfTokens .enddr [stateNameToken s]
  | .state s ss => svfTokens .state ((s :: ss).map stateNameToken)
  | .hir n t o => svfTokens .hir (natToken n :: fieldTokens t o)
  | .hdr n t o => svfTokens .hdr (natToken n :: fieldTokens t o)
  | .tir n t o => svfTokens .tir (natToken n :: fieldTokens t o)
  | .tdr n t o => svfTokens .tdr (natToken n :: fieldTokens t o)
  | .sir n t o => svfTokens .sir (natToken n :: fieldTokens (some t) o)
  | .sdr n t o => svfTokens .sdr (natToken n :: fieldTokens (some t) o)
  | .runtest n => svfTokens .runtest [natToken n, .word (chars ['T', 'C', 'K'])]

/-- The bytes of a token. -/
def Token.render : Token → List Byte
  | .word bytes => bytes
  | .paren inside => openParen :: inside ++ [closeParen]
  | .unclosed inside => openParen :: inside

/-- Tokens with a space after each (30_encoding.md R112). -/
def renderTokens (ts : List Token) : List Byte := ts.flatMap fun t => t.render ++ [0x20#8]

/-- The text of an instruction, with the `;` that ends it (30_encoding.md R112). -/
def encode (i : Instr) : List Byte := renderTokens (encodeTokens i) ++ [semicolon]

/-- Whether an instruction is an SVF command. -/
def Instr.isSvf : Instr → Bool
  | .trst _ | .pio _ | .piomap _ | .frequency _ | .endir _ | .enddr _ | .state _ _ => true
  | .hir _ _ _ | .hdr _ _ _ | .tir _ _ _ | .tdr _ _ _ | .sir _ _ _ | .sdr _ _ _ | .runtest _ => true
  | .new _ | .length _ | .resize _ _ | .get _ _ | .setBit _ _ _ | .setBits _ _ _ | .xor _ _ => false
  | .concat _ _ | .shiftRight _ _ | .reverse _ | .equal _ _ | .toHexString _ | .fromHexString _ _ => false
  | .toCharString _ | .fromCharString _ _ | .toWordString _ | .fromWordString _ _ => false
  | .fromHexStream _ _ _ | .fromCharStream _ _ _ | .toString _ | .fromString _ => false
  | .nextState _ _ | .pathOf _ _ | .gotoNextState _ | .gotoState _ | .goThruTapSequence _ => false
  | .updateState _ | .initTap | .pathsOk | .setTck _ | .getTck | .pulseTck _ | .setTms _ | .getTms => false
  | .setTdi _ | .getTdi | .getTdo | .sendRecvBitstream _ _ _ | .loadIrThenDr _ _ _ => false
  | .getNumberOfDevices | .getIdcodes | .svfRun _ => false

/-- The tokens of either kind of instruction, decoded: what `encodeTokens` is undone by. -/
def decodeTokens (optional : OptionalFields) (svf : Bool) (ts : List Token) : Option Instr :=
  if svf then (decodeSvfTokens optional ts).toOption else (decodeCallTokens ts).toOption

end Sys2Proof
end

