-- ==== Sys2Proof/Machine/State.lean ====
section
/-!
DEFINITION. The state of the block and of what it can see of its environment (10_state.md R30 to R47), the
outcomes, errors and faults of an operation (60_exceptions.md R330 to R334), and the state after reset (10_state.md
R47). INVENTORY.md's '## State' lists every field with its rule.
-/
namespace Sys2Proof.Machine

/-- The protocol precondition violations with the operands each records (60_exceptions.md R331, R334). -/
inductive FaultCode where
  | indexOutOfRange (index length : Nat)
  | lengthMismatch (lengthA lengthB : Nat)
  | wrongTapState (tap : TapState)
  | illegalTransition (tap target : TapState)
  | badStartState (tap : TapState)
  | invalidState
  | badStringChar (position : Nat) (char : Byte)
  | shortInput (given needed : Nat)
deriving DecidableEq, Repr

/-- The recoverable errors with their descriptions (60_exceptions.md R331, R332). -/
inductive OpError where
  /-- An error of an SVF stream: its kind, the offset of the failing command, its keyword token. -/
  | svf (kind : SvfError) (offset : Nat) (keyword : List Byte)
  /-- `MalformedTruncatedStream`: the length asked for, the digits or bytes read. -/
  | truncatedStream (n read : Nat)
  /-- `DeviceNoChainTerminator`: the window size. -/
  | noChainTerminator (window : Nat)
deriving DecidableEq, Repr

/-- The result of an operation that succeeds. -/
inductive Value where
  | none
  | nat (n : Nat)
  | bit (v : Bit)
  | bool (v : Bool)
  | bits (b : Bitstream)
  | text (s : List Byte)
  | bytes (s : List Byte)
  | words (ws : List Word)
  | state (s : TapState)
  | states (ss : List TapState)
  | bitstreams (bs : List Bitstream)
deriving DecidableEq, Repr

/-- What an operation returns to its caller (60_exceptions.md R330). A fault is no return value. -/
inductive OpOutcome where
  | ok (result : Value)
  | error (e : OpError)
  | cancelled
deriving DecidableEq, Repr

/-- Why the machine stops with a fault. -/
inductive Fault where
  /-- Raised by `step` and by every instruction when `x[FAULT]` is set: the block takes no further step
  (60_exceptions.md R333, U20). Safe: the spec says that it is stuck. -/
  | stuck (f : FaultCode)
deriving DecidableEq, Repr

/-- Why the model gives a step no meaning. -/
inductive Refusal where
  /-- Raised by no arm of `exec` now: every instruction has its meaning. Safe. -/
  | notModelled (mnemonic : String)
  /-- Raised by every operation, and by `step`, when an operation is called while an `svf_run` is running: use
  of one block by two callers at once is refused (60_exceptions.md R352, U3). Safe. -/
  | concurrentUse
  /-- Raised by `step` when the bytes of a call name no operation call (00_scope.md R3: no other operation is
  part of the hardware). Safe. -/
  | badCall (e : CallError)
deriving DecidableEq, Repr

/-- The state of the machine. -/
structure State where
  /-- The TAP tracker (10_state.md R31). -/
  tap : TapState
  /-- The end state after `SIR` (10_state.md R33). -/
  endir : TapState
  /-- The end state after `SDR` (10_state.md R34). -/
  enddr : TapState
  /-- The SVF headers and trailers (10_state.md R35). -/
  hir : Bitstream
  hdr : Bitstream
  tir : Bitstream
  tdr : Bitstream
  /-- The number of devices, -1 until discovered (10_state.md R38). -/
  numdev : Int
  /-- The IDCODEs, chain position 0 first (10_state.md R39). -/
  idcodes : List Bitstream
  /-- The SVF command pointer (10_state.md R37). -/
  pc : Nat
  /-- The sticky fault mark (10_state.md R40). -/
  fault : Option FaultCode
  /-- The transport's pin levels (10_state.md R43). -/
  tck : Bit
  tms : Bit
  tdi : Bit
  /-- The answer the next cancellation poll gives (60_exceptions.md R343; log entry 5). -/
  cancel : Bit
  /-- The pulses so far, oldest first (10_state.md R30, 42_scan.md R221). -/
  trace : List PulseEvent
  /-- What the block has asked of its environment so far, newest first: the model's own (log entry 8). -/
  accesses : List Access
  /-- The SVF text being interpreted, without its comments (44_svf.md R271). -/
  text : List Byte
  /-- Whether an `svf_run` is in progress (44_svf.md R272). -/
  running : Bool
  /-- The call the host has made and the block has not taken (60_exceptions.md R350). -/
  call : Option (List Byte)
  /-- What the last operation returned (60_exceptions.md R330; log entry 3). -/
  outcome : Option OpOutcome
  /-- The last in-out Bitstream operand as its operation left it (log entry 3). -/
  holder : Bitstream
  /-- What the last streaming operation left unread (20_memory.md R65; log entry 3). -/
  reader : List Byte
deriving DecidableEq, Repr

/-- The pin levels together. -/
def State.pins (s : State) : Pins := ⟨s.tck, s.tms, s.tdi⟩

/-- The block right after it is created (10_state.md R47, 70_reset_and_hazards.md R370, R372): no pulse is
issued, and the pin levels and the first poll's answer are free values (log entries 5, 6, 22). -/
def State.reset : State where
  tap := .testLogicReset
  endir := .runTestIdle
  enddr := .runTestIdle
  hir := []
  hdr := []
  tir := []
  tdr := []
  numdev := -1
  idcodes := []
  pc := 0
  fault := none
  tck := Config.resetTck
  tms := Config.resetTms
  tdi := Config.resetTdi
  cancel := Config.resetCancel
  trace := []
  accesses := []
  text := []
  running := false
  call := none
  outcome := none
  holder := []
  reader := []

end Sys2Proof.Machine
end

