-- ==== Sys2Proof/Machine/Flags.lean ====
section
/-!
DEFINITION. The block has no condition codes: its only flags are `x[FAULT]` and `x[NUMDEV] = -1` (10_state.md
R41). The numeric codes of outcomes and faults (60_exceptions.md R331).
-/
namespace Sys2Proof.Machine

/-- Whether the block is stuck (10_state.md R40). -/
def State.faulted (s : State) : Bool := s.fault.isSome

/-- Whether the number of devices has been discovered (10_state.md R38, R41). -/
def State.discovered (s : State) : Bool := s.numdev != -1

/-- The code of a fault (60_exceptions.md R331). -/
def FaultCode.code : FaultCode → Nat
  | .indexOutOfRange _ _ => 64
  | .lengthMismatch _ _ => 65
  | .wrongTapState _ => 66
  | .illegalTransition _ _ => 67
  | .badStartState _ => 68
  | .invalidState => 69
  | .badStringChar _ _ => 70
  | .shortInput _ _ => 71

/-- The code of an SVF error (60_exceptions.md R331). -/
def svfErrorCode : SvfError → Nat
  | .unknownCommand => 16
  | .badNumber => 17
  | .missingField => 18
  | .badStateName => 19
  | .badHexField => 20
  | .unexpectedToken => 21
  | .emptyCommand => 22
  | .unterminatedCommand => 23
  | .duplicateField => 24
  | .rejectedField => 26

/-- The code of an error (60_exceptions.md R331). -/
def OpError.code : OpError → Nat
  | .svf kind _ _ => svfErrorCode kind
  | .truncatedStream _ _ => 25
  | .noChainTerminator _ => 32

/-- The code of an outcome (60_exceptions.md R331). -/
def OpOutcome.code : OpOutcome → Nat
  | .ok _ => 0
  | .cancelled => 1
  | .error e => e.code

end Sys2Proof.Machine
end

