-- ==== Sys2Proof/Machine/Operands.lean ====
section
/-!
DEFINITION. The value of a Bitstream, its packings into hex text, bytes and words, and the readings back
(00_scope.md R9 to R11; 20_memory.md R61 to R71; 40_bitstream.md). Each of these is a function of values: none
reads or writes the state.
-/
namespace Sys2Proof.Machine

/-- `zeros(n)` (00_scope.md R10), and `new(n)` (40_bitstream.md R132). -/
def zeros (n : Nat) : Bitstream := List.replicate n false

/-- `ones(n)` (00_scope.md R10). -/
def ones (n : Nat) : Bitstream := List.replicate n true

/-- `bs(n, v)` (00_scope.md R10). -/
def bs (n v : Nat) : Bitstream := (List.range n).map fun i => v.testBit i

/-- `val(b)` (00_scope.md R9). -/
def val : Bitstream → Nat
  | [] => 0
  | b :: rest => b.toNat + 2 * val rest

/-- `ceil(n / unit)`. -/
def ceilDiv (n unit : Nat) : Nat := (n + unit - 1) / unit

/-- The storage words of a Bitstream of length `n` at a storage word width `w`: at least one (20_memory.md R70).
No value depends on it (40_bitstream.md R130). -/
def storageWords (w n : Nat) : Nat := max 1 (ceilDiv n w)

/-- `resize` (40_bitstream.md R134). -/
def resizeBits (b : Bitstream) (m : Nat) : Bitstream := b.take m ++ zeros (m - b.length)

/-- `a ++ b`: `b` low, `a` high (00_scope.md R11, 40_bitstream.md R139). -/
def concatBits (a b : Bitstream) : Bitstream := b ++ a

/-- `a XOR b` of equal lengths (40_bitstream.md R138). -/
def xorBits (a b : Bitstream) : Bitstream := List.zipWith (fun x y => x ^^ y) a b

/-- `shift_right` (40_bitstream.md R140). -/
def shiftRightBits (b : Bitstream) (k : Nat) : Bitstream := b.drop k ++ zeros (min k b.length)

/-- Writes `seq` from index `i` on for as long as the index is below the length, and gives the first index that
is not (40_bitstream.md R136, R137). -/
def writeBits (b : Bitstream) (i : Nat) : List Bit → Bitstream × Option Nat
  | [] => (b, none)
  | v :: vs => if i < b.length then writeBits (b.set i v) (i + 1) vs else (b, some i)

/-- The bits of a Bitstream with the padding that fills its last unit of `unit` bits (40_bitstream.md R143). -/
def padded (padding : Nat → Bit) (unit : Nat) (b : Bitstream) : List Bit :=
  b ++ (List.range (ceilDiv b.length unit * unit - b.length)).map fun j => padding (b.length + j)

/-- The value of each unit of a padded Bitstream, unit 0 first (20_memory.md R66, R67, R71). -/
def units (padding : Nat → Bit) (unit : Nat) (b : Bitstream) : List Nat :=
  (List.range (ceilDiv b.length unit)).map fun k =>
    val (((padded padding unit b).drop (unit * k)).take unit)

/-- `to_hex_string`: `ceil(n/4)` upper-case digits, the most significant first (40_bitstream.md R144). `ofHex` reads it
back, whatever the padding (R155). -/
def toHex (padding : Nat → Bit) (b : Bitstream) : List Byte :=
  (units padding 4 b).reverse.map fun v => hexDigitByte (BitVec.ofNat 4 v)

/-- The number a digit string stands for, the first digit the most significant (20_memory.md R68). -/
def hexValue (digits : List Nibble) : Nat := digits.foldl (fun v d => 16 * v + d.toNat) 0

/-- The n-bit field of a digit string (30_encoding.md R105, 40_bitstream.md R145). -/
def ofHexDigits (n : Nat) (digits : List Nibble) : Bitstream := bs n (hexValue digits % 2 ^ n)

/-- `from_hex_string` (40_bitstream.md R145), the inverse of `toHex` (R155). -/
def ofHex (n : Nat) (text : List Byte) : Bitstream := ofHexDigits n (hexDigits text)

/-- `to_char_string`: bit 0 of the stream is bit 0 of byte 0 (40_bitstream.md R146). `ofChars` reads it back,
whatever the padding (R155). -/
def toChars (padding : Nat → Bit) (b : Bitstream) : List Byte := (units padding 8 b).map (BitVec.ofNat 8)

/-- The first `n` bits of a byte sequence (40_bitstream.md R147), the inverse of `toChars` (R155). -/
def ofChars (n : Nat) (bytes : List Byte) : Bitstream := (bytes.flatMap fun b => bs 8 b.toNat).take n

/-- `to_word_string` (40_bitstream.md R148). `ofWords` reads it back, whatever the padding (R155). -/
def toWords (padding : Nat → Bit) (b : Bitstream) : List Word := (units padding 16 b).map (BitVec.ofNat 16)

/-- The first `n` bits of a word sequence (40_bitstream.md R149), the inverse of `toWords` (R155). -/
def ofWords (n : Nat) (words : List Word) : Bitstream := (words.flatMap fun w => bs 16 w.toNat).take n

/-- `to_string`: the leftmost character is the highest index (40_bitstream.md R152). `ofBinary` reads it back
(R155). -/
def toBinary (b : Bitstream) : List Byte := b.reverse.map bitChar

/-- The position and the value of the first character that is neither `0` nor `1`, from position `j` on
(40_bitstream.md R153). -/
def firstBadChar (j : Nat) : List Byte → Option (Nat × Byte)
  | [] => none
  | b :: rest => if (bitChar? b).isSome then firstBadChar (j + 1) rest else some (j, b)

/-- `from_string` of a text all of whose characters are `0` or `1` (40_bitstream.md R153), the inverse of `toBinary`
(R155). -/
def ofBinary (text : List Byte) : Bitstream := (text.map fun b => b == 0x31#8).reverse

/-- Reads bytes until `need` hex digits have been found, other bytes skipped: the digits found and the bytes
left (40_bitstream.md R150). -/
def takeHexDigits : Nat → List Byte → List Nibble × List Byte
  | 0, reader => ([], reader)
  | _ + 1, [] => ([], [])
  | need + 1, b :: reader =>
    match hexDigit? b with
    | none => takeHexDigits (need + 1) reader
    | some d => (d :: (takeHexDigits need reader).1, (takeHexDigits need reader).2)

/-- `b`, reversed where the bit says so (40_bitstream.md R150, R151). -/
def reverseIf (reverseBits : Bit) (b : Bitstream) : Bitstream := if reverseBits then b.reverse else b

/-- The index of the first 0 (43_chain.md R251). -/
def firstZero : Bitstream → Option Nat
  | [] => none
  | b :: rest => if b then (firstZero rest).map (· + 1) else some 0

/-- `d` slices of 32 bits, the first captured first (43_chain.md R253). -/
def idcodeSlices (d : Nat) (recv : Bitstream) : List Bitstream :=
  (List.range d).map fun k => (recv.drop (32 * k)).take 32

end Sys2Proof.Machine
end

