-- ==== Sys2Proof/Machine/Tap.lean ====
section
/-!
DEFINITION. The two constant tables of the TAP (10_state.md R42): the transition table (41_tap.md R191) and the
path table (R193), written as the spec writes them.
-/
namespace Sys2Proof.Machine

/-- The transition table, `next(s, t)` (41_tap.md R191). -/
def next : TapState → Bit → TapState
  | .testLogicReset, false => .runTestIdle
  | .testLogicReset, true => .testLogicReset
  | .runTestIdle, false => .runTestIdle
  | .runTestIdle, true => .selectDRScan
  | .selectDRScan, false => .captureDR
  | .selectDRScan, true => .selectIRScan
  | .selectIRScan, false => .captureIR
  | .selectIRScan, true => .testLogicReset
  | .captureDR, false => .shiftDR
  | .captureDR, true => .exit1DR
  | .captureIR, false => .shiftIR
  | .captureIR, true => .exit1IR
  | .shiftDR, false => .shiftDR
  | .shiftDR, true => .exit1DR
  | .shiftIR, false => .shiftIR
  | .shiftIR, true => .exit1IR
  | .exit1DR, false => .pauseDR
  | .exit1DR, true => .updateDR
  | .exit1IR, false => .pauseIR
  | .exit1IR, true => .updateIR
  | .pauseDR, false => .pauseDR
  | .pauseDR, true => .exit2DR
  | .pauseIR, false => .pauseIR
  | .pauseIR, true => .exit2IR
  | .exit2DR, false => .shiftDR
  | .exit2DR, true => .updateDR
  | .exit2IR, false => .shiftIR
  | .exit2IR, true => .updateIR
  | .updateDR, false => .runTestIdle
  | .updateDR, true => .selectDRScan
  | .updateIR, false => .runTestIdle
  | .updateIR, true => .selectDRScan

/-- One row of the path table: the TMS string from a state to each of the 16 states, in the order of their codes,
first pulse first (41_tap.md R193). -/
def routeRow : TapState → List (List Nat)
  | .testLogicReset => [
      [], [0], [0, 1], [0, 1, 1],
      [0, 1, 0], [0, 1, 1, 0], [0, 1, 0, 0], [0, 1, 1, 0, 0],
      [0, 1, 0, 1], [0, 1, 1, 0, 1], [0, 1, 0, 1, 0], [0, 1, 1, 0, 1, 0],
      [0, 1, 0, 1, 0, 1], [0, 1, 1, 0, 1, 0, 1], [0, 1, 0, 1, 1], [0, 1, 1, 0, 1, 1]]
  | .runTestIdle => [
      [1, 1, 1], [], [1], [1, 1],
      [1, 0], [1, 1, 0], [1, 0, 0], [1, 1, 0, 0],
      [1, 0, 1], [1, 1, 0, 1], [1, 0, 1, 0], [1, 1, 0, 1, 0],
      [1, 0, 1, 0, 1], [1, 1, 0, 1, 0, 1], [1, 0, 1, 1], [1, 1, 0, 1, 1]]
  | .selectDRScan => [
      [1, 1], [1, 1, 0], [], [1],
      [0], [1, 0], [0, 0], [1, 0, 0],
      [0, 1], [1, 0, 1], [0, 1, 0], [1, 0, 1, 0],
      [0, 1, 0, 1], [1, 0, 1, 0, 1], [0, 1, 1], [1, 0, 1, 1]]
  | .selectIRScan => [
      [1], [1, 0], [1, 0, 1], [],
      [1, 0, 1, 0], [0], [1, 0, 1, 0, 0], [0, 0],
      [1, 0, 1, 0, 1], [0, 1], [1, 0, 1, 0, 1, 0], [0, 1, 0],
      [1, 0, 1, 0, 1, 0, 1], [0, 1, 0, 1], [1, 0, 1, 0, 1, 1], [0, 1, 1]]
  | .captureDR => [
      [1, 1, 1, 1, 1], [1, 1, 0], [1, 1, 1], [1, 1, 1, 1],
      [], [1, 1, 1, 1, 0], [0], [1, 1, 1, 1, 0, 0],
      [1], [1, 1, 1, 1, 0, 1], [1, 0], [1, 1, 1, 1, 0, 1, 0],
      [1, 0, 1], [1, 1, 1, 1, 0, 1, 0, 1], [1, 1], [1, 1, 1, 1, 0, 1, 1]]
  | .captureIR => [
      [1, 1, 1, 1, 1], [1, 1, 0], [1, 1, 1], [1, 1, 1, 1],
      [1, 1, 1, 0], [], [1, 1, 1, 0, 0], [0],
      [1, 1, 1, 0, 1], [1], [1, 1, 1, 0, 1, 0], [1, 0],
      [1, 1, 1, 0, 1, 0, 1], [1, 0, 1], [1, 1, 1, 0, 1, 1], [1, 1]]
  | .shiftDR => [
      [1, 1, 1, 1, 1], [1, 1, 0], [1, 1, 1], [1, 1, 1, 1],
      [1, 1, 1, 0], [1, 1, 1, 1, 0], [], [1, 1, 1, 1, 0, 0],
      [1], [1, 1, 1, 1, 0, 1], [1, 0], [1, 1, 1, 1, 0, 1, 0],
      [1, 0, 1], [1, 1, 1, 1, 0, 1, 0, 1], [1, 1], [1, 1, 1, 1, 0, 1, 1]]
  | .shiftIR => [
      [1, 1, 1, 1, 1], [1, 1, 0], [1, 1, 1], [1, 1, 1, 1],
      [1, 1, 1, 0], [1, 1, 1, 1, 0], [1, 1, 1, 0, 0], [],
      [1, 1, 1, 0, 1], [1], [1, 1, 1, 0, 1, 0], [1, 0],
      [1, 1, 1, 0, 1, 0, 1], [1, 0, 1], [1, 1, 1, 0, 1, 1], [1, 1]]
  | .exit1DR => [
      [1, 1, 1, 1], [1, 0], [1, 1], [1, 1, 1],
      [1, 1, 0], [1, 1, 1, 0], [0, 1, 0], [1, 1, 1, 0, 0],
      [], [1, 1, 1, 0, 1], [0], [1, 1, 1, 0, 1, 0],
      [0, 1], [1, 1, 1, 0, 1, 0, 1], [1], [1, 1, 1, 0, 1, 1]]
  | .exit1IR => [
      [1, 1, 1, 1], [1, 0], [1, 1], [1, 1, 1],
      [1, 1, 0], [1, 1, 1, 0], [1, 1, 0, 0], [0, 1, 0],
      [1, 1, 0, 1], [], [1, 1, 0, 1, 0], [0],
      [1, 1, 0, 1, 0, 1], [0, 1], [1, 1, 0, 1, 1], [1]]
  | .pauseDR => [
      [1, 1, 1, 1, 1], [1, 1, 0], [1, 1, 1], [1, 1, 1, 1],
      [1, 1, 1, 0], [1, 1, 1, 1, 0], [1, 0], [1, 1, 1, 1, 0, 0],
      [1, 0, 1], [1, 1, 1, 1, 0, 1], [], [1, 1, 1, 1, 0, 1, 0],
      [1], [1, 1, 1, 1, 0, 1, 0, 1], [1, 1], [1, 1, 1, 1, 0, 1, 1]]
  | .pauseIR => [
      [1, 1, 1, 1, 1], [1, 1, 0], [1, 1, 1], [1, 1, 1, 1],
      [1, 1, 1, 0], [1, 1, 1, 1, 0], [1, 1, 1, 0, 0], [1, 0],
      [1, 1, 1, 0, 1], [1, 0, 1], [1, 1, 1, 0, 1, 0], [],
      [1, 1, 1, 0, 1, 0, 1], [1], [1, 1, 1, 0, 1, 1], [1, 1]]
  | .exit2DR => [
      [1, 1, 1, 1], [1, 0], [1, 1], [1, 1, 1],
      [1, 1, 0], [1, 1, 1, 0], [0], [1, 1, 1, 0, 0],
      [0, 1], [1, 1, 1, 0, 1], [0, 1, 0], [1, 1, 1, 0, 1, 0],
      [], [1, 1, 1, 0, 1, 0, 1], [1], [1, 1, 1, 0, 1, 1]]
  | .exit2IR => [
      [1, 1, 1, 1], [1, 0], [1, 1], [1, 1, 1],
      [1, 1, 0], [1, 1, 1, 0], [1, 1, 0, 0], [0],
      [1, 1, 0, 1], [0, 1], [1, 1, 0, 1, 0], [0, 1, 0],
      [1, 1, 0, 1, 0, 1], [], [1, 1, 0, 1, 1], [1]]
  | .updateDR => [
      [1, 1, 1], [0], [1], [1, 1],
      [1, 0], [1, 1, 0], [1, 0, 0], [1, 1, 0, 0],
      [1, 0, 1], [1, 1, 0, 1], [1, 0, 1, 0], [1, 1, 0, 1, 0],
      [1, 0, 1, 0, 1], [1, 1, 0, 1, 0, 1], [], [1, 1, 0, 1, 1]]
  | .updateIR => [
      [1, 1, 1], [0], [1], [1, 1],
      [1, 0], [1, 1, 0], [1, 0, 0], [1, 1, 0, 0],
      [1, 0, 1], [1, 1, 0, 1], [1, 0, 1, 0], [1, 1, 0, 1, 0],
      [1, 0, 1, 0, 1], [1, 1, 0, 1, 0, 1], [1, 0, 1, 1], []]

/-- The TMS levels of the shortest route from `a` to `d` (41_tap.md R193). -/
def route (a d : TapState) : List Bit := ((routeRow a).getD d.code []).map fun t => t == 1

/-- The states a TMS string enters from `a`, in order. -/
def statesFrom (a : TapState) : List Bit → List TapState
  | [] => []
  | t :: ts => next a t :: statesFrom (next a t) ts

/-- The state a TMS string leads to from `a`. -/
def walk (a : TapState) : List Bit → TapState
  | [] => a
  | t :: ts => walk (next a t) ts

/-- The path table, `path(from, to)`: the states the route's pulses enter, the last being `to` (41_tap.md R193). -/
def path (a d : TapState) : List TapState := statesFrom a (route a d)

/-- The state after `n` pulses at level `t` (41_tap.md R202). -/
def advance (t : Bit) : Nat → TapState → TapState
  | 0, s => s
  | n + 1, s => advance t n (next s t)

/-- Whether each state of a sequence is entered from the one before by some TMS level, from `s` on, and the last
is `d` (41_tap.md R204). -/
def leadsTo (d s : TapState) : List TapState → Bool
  | [] => s == d
  | e :: es => (e == next s false || e == next s true) && leadsTo d e es

/-- The self-check of the tables (41_tap.md R204). -/
def pathsOk : Bool := TapState.all.all fun a => TapState.all.all fun d => leadsTo d a (path a d)

end Sys2Proof.Machine
end

