-- ==== Sys2Proof/Machine/Ops.lean ====
section
/-!
DEFINITION. The operations every meaning is written from: the transport (42_scan.md R220 to R224), the moves of
the tracker (41_tap.md R199 to R203), the scan (42_scan.md R226), what an operation returns (60_exceptions.md
R330), raising a fault (R333) and the error exits (R336, R344). Each takes the parameters and the environment as
its argument `c` (00_scope.md R7, 42_scan.md R220).
-/
namespace Sys2Proof.Machine

/-! ## Outcomes and faults -/

/-- The operation ends with `Ok(v)` (60_exceptions.md R330). -/
def reply (v : Value) (s : State) : State := { s with outcome := some (.ok v) }

/-- The operation ends with an error (60_exceptions.md R330). -/
def replyError (e : OpError) (s : State) : State := { s with outcome := some (.error e) }

/-- Raises a fault: the effects so far stay, the mark is set, and no outcome is returned (60_exceptions.md R333). -/
def raiseFault (f : FaultCode) (s : State) : State := { s with fault := some f, outcome := none }

/-- Ends with `Ok(v)` where there is no fault, else raises it. -/
def replyOrFault (f : Option FaultCode) (v : Value) (s : State) : State :=
  match f with
  | none => reply v s
  | some f => raiseFault f s

/-- What every operation call does first: a stuck block accepts none (60_exceptions.md R333), and one that runs
an SVF stream is not called (R352). -/
def onCall (s : State) (body : State → State) : Host.Outcome State Fault Refusal :=
  match s.fault with
  | some f => .fault (.stuck f)
  | none => if s.running then .refused .concurrentUse else .next (body s)

/-- What every SVF command does first: a stuck block executes none (60_exceptions.md R333). -/
def onCommand (s : State) (body : State → State) : Host.Outcome State Fault Refusal :=
  match s.fault with
  | some f => .fault (.stuck f)
  | none => .next (body s)

/-! ## The caller's in-out operands -/

/-- The in-out Bitstream operand holds `b`. -/
def setHolder (b : Bitstream) (s : State) : State := { s with holder := b }

/-- The input reader has these bytes left (20_memory.md R65). -/
def setReader (r : List Byte) (s : State) : State := { s with reader := r }

/-! ## The transport -/

/-- `SetTCK(v)` (42_scan.md R232). -/
def setTck (v : Bit) (s : State) : State := { s with tck := v, accesses := .setTck v :: s.accesses }

/-- `SetTMS(v)` (42_scan.md R234). -/
def setTms (v : Bit) (s : State) : State := { s with tms := v, accesses := .setTms v :: s.accesses }

/-- `SetTDI(v)` (42_scan.md R236). -/
def setTdi (v : Bit) (s : State) : State := { s with tdi := v, accesses := .setTdi v :: s.accesses }

/-- The TDO level the chain presents (42_scan.md R222, R238). -/
def tdoNow (c : Params) (s : State) : Bit := c.tdo s.pins s.trace s.accesses

/-- `GetTDO` has been asked: the next answer is a new draw (42_scan.md R238). -/
def noteTdoRead (s : State) : State := { s with accesses := .readTdo :: s.accesses }

/-- The event of a pulse at the present levels (42_scan.md R221). -/
def pulseEvent (c : Params) (s : State) : PulseEvent := ⟨s.tms, s.tdi, tdoNow c s⟩

/-- One TCK pulse: TCK returns to its level, TMS and TDI are not changed, the tracker is not changed (42_scan.md
R221, R223). -/
def pulse (c : Params) (s : State) : State :=
  { s with trace := s.trace ++ [pulseEvent c s], accesses := .pulse :: s.accesses }

/-- `PulseTCK(n)` (42_scan.md R223). -/
def pulses (c : Params) : Nat → State → State
  | 0, s => s
  | n + 1, s => pulses c n (pulse c s)

/-- The answers of the padding bits of this operation (40_bitstream.md R143). -/
def paddingOf (c : Params) (s : State) (b : Bitstream) : Nat → Bit := c.padding s.accesses b

/-- Padding bits have been drawn. -/
def notePadding (s : State) : State := { s with accesses := .padding :: s.accesses }

/-! ## The tracker -/

/-- Writes the tracker. -/
def setTap (t : TapState) (s : State) : State := { s with tap := t }

/-- One pulse at TMS level `t` that the tracker follows (41_tap.md R199). -/
def stepTap (c : Params) (t : Bit) (s : State) : State := setTap (next s.tap t) (pulse c (setTms t s))

/-- A pulse for each TMS level of a route, first level first. -/
def followRoute (c : Params) : List Bit → State → State
  | [], s => s
  | t :: ts, s => followRoute c ts (stepTap c t s)

/-- The TMS level that takes one state to another in one pulse, 0 where both do (41_tap.md R199). -/
def levelTo (a target : TapState) : Option Bit :=
  if next a false = target then some false else if next a true = target then some true else none

/-- `goto_next_state` (41_tap.md R199): the state it leaves, and its fault. -/
def gotoNext (c : Params) (target : StateOperand) (s : State) : State × Option FaultCode :=
  match target with
  | .invalid => (s, some .invalidState)
  | .state d =>
    match levelTo s.tap d with
    | none => (s, some (.illegalTransition s.tap d))
    | some t => (stepTap c t s, none)

/-- `goto_next_state` for each element, up to the first fault (41_tap.md R201). -/
def goThru (c : Params) : List StateOperand → State → State × Option FaultCode
  | [], s => (s, none)
  | d :: ds, s =>
    match gotoNext c d s with
    | (s', none) => goThru c ds s'
    | (s', some f) => (s', some f)

/-- `goto_state` of one of the 16 states: the pulses of the shortest route (41_tap.md R200). -/
def gotoTap (c : Params) (d : TapState) (s : State) : State := followRoute c (route s.tap d) s

/-- `goto_state` for each state of a list (44_svf.md R280). -/
def gotoEach (c : Params) : List TapState → State → State
  | [], s => s
  | d :: ds, s => gotoEach c ds (gotoTap c d s)

/-- `update_state(n)`: the tracker moves by `n` pulses at the present TMS level, none of which is issued
(41_tap.md R202). -/
def updateTap (n : Nat) (s : State) : State := setTap (advance s.tms n s.tap) s

/-- `init_tap()` (41_tap.md R203). -/
def initTap (c : Params) (s : State) : State := setTap .testLogicReset (pulses c 5 (setTms true s))

/-! ## The scan engine -/

/-- One pulse of a scan: TDI, TMS, the pulse, the tracker (42_scan.md R226). -/
def shiftStep (c : Params) (tdi tms : Bit) (s : State) : State := stepTap c tms (setTdi tdi s)

/-- The TDO bit of one pulse of a scan (42_scan.md R226). -/
def shiftTdo (c : Params) (tdi tms : Bit) (s : State) : Bit := tdoNow c (setTms tms (setTdi tdi s))

/-- The pulses of a scan, one for each bit driven on TDI, TMS raised on the last where the scan exits: the TDO
bits, first pulse first, and the state it leaves (42_scan.md R226). -/
def shift (c : Params) (goToExit : Bit) : List Bit → State → List Bit × State
  | [], s => ([], s)
  | b :: rest, s =>
    let tms := goToExit && rest.isEmpty
    let r := shift c goToExit rest (shiftStep c b tms s)
    (shiftTdo c b tms s :: r.1, r.2)

/-- The TDI bits of a scan: `send`, then 0s up to the longer of the two lengths (42_scan.md R226). -/
def scanBits (send recv : Bitstream) : List Bit := send ++ zeros (recv.length - send.length)

/-- The bulk shift of `send` through TDI: the captured bits kept in `recv`, and the state it leaves (42_scan.md
R226). Its precondition is the caller's (R225). -/
def scan (c : Params) (send recv : Bitstream) (goToExit : Bit) (s : State) : Bitstream × State :=
  let r := shift c goToExit (scanBits send recv) s
  (r.1.take recv.length, r.2)

/-- Whether a scan may start (42_scan.md R225). -/
def mayScan (t : TapState) : Bool := t == .shiftDR || t == .shiftIR

/-- Whether `load_ir_then_dr` may start (42_scan.md R239). -/
def mayLoad (t : TapState) : Bool :=
  t == .runTestIdle || t == .testLogicReset || t == .pauseDR || t == .pauseIR

/-- The instruction phase of `load_ir_then_dr` (42_scan.md R239). -/
def irPhase (c : Params) (instruction : Bitstream) (s : State) : State :=
  if instruction.isEmpty then s
  else gotoTap c .updateIR (scan c instruction [] true (gotoTap c .shiftIR s)).2

/-- The data phase of `load_ir_then_dr`: what `recv` then holds, and the state (42_scan.md R239). -/
def drPhase (c : Params) (send recv : Bitstream) (s : State) : Bitstream × State :=
  if send.isEmpty && recv.isEmpty then (recv, s)
  else
    let r := scan c send recv true (gotoTap c .shiftDR s)
    (r.1, gotoTap c .updateDR r.2)

/-- `load_ir_then_dr` from a legal start state (42_scan.md R239). -/
def loadIrDr (c : Params) (instruction send recv : Bitstream) (s : State) : Bitstream × State :=
  let r := drPhase c send recv (irPhase c instruction s)
  (r.1, gotoTap c .runTestIdle r.2)

/-! ## Cancellation and the error exits -/

/-- The next poll will read a new answer (60_exceptions.md R343). -/
def notePoll (c : Params) (s : State) : State :=
  { s with cancel := c.cancel s.pins s.trace s.accesses, accesses := .poll :: s.accesses }

/-- The run of the SVF stream ends and returns an outcome (44_svf.md R270, R272). -/
def endRun (o : OpOutcome) (s : State) : State := { s with running := false, outcome := some o }

/-- The error exit of an SVF stream: `init_tap()`, then the error (44_svf.md R273, 60_exceptions.md R336). -/
def errorExit (c : Params) (kind : SvfError) (offset : Nat) (keyword : List Byte) (s : State) : State :=
  endRun (.error (.svf kind offset keyword)) (initTap c s)

/-- The cancellation exit: `init_tap()`, then `Cancelled` (44_svf.md R289, 60_exceptions.md R344). -/
def cancelExit (c : Params) (s : State) : State := endRun .cancelled (initTap c s)

end Sys2Proof.Machine
end

