-- ==== Sys2Proof/Machine/Bitstream.lean ====
section
/-!
DEFINITION. The meanings of the 21 Bitstream operations (40_bitstream.md), in the table's order. An operation
that changes its operand in place leaves the new value in `holder` (log entry 3).
-/
namespace Sys2Proof.Machine

/-- `new(n)` (40_bitstream.md R132). -/
def execNew (n : Nat) (s : State) : Host.Outcome State Fault Refusal :=
  onCall s (reply (.bits (zeros n)))

/-- `length(b)` (40_bitstream.md R133). -/
def execLength (b : Bitstream) (s : State) : Host.Outcome State Fault Refusal :=
  onCall s (reply (.nat b.length))

/-- `resize(b, m)` (40_bitstream.md R134). -/
def execResize (b : Bitstream) (m : Nat) (s : State) : Host.Outcome State Fault Refusal :=
  onCall s fun s => reply .none (setHolder (resizeBits b m) s)

/-- `get(b, i)` (40_bitstream.md R135). -/
def execGet (b : Bitstream) (i : Nat) (s : State) : Host.Outcome State Fault Refusal :=
  onCall s fun s =>
    match b[i]? with
    | some v => reply (.bit v) s
    | none => raiseFault (.indexOutOfRange i b.length) s

/-- The fault of a write that stopped at an index (40_bitstream.md R136, R137). -/
def indexFault (b : Bitstream) (stopped : Option Nat) : Option FaultCode :=
  stopped.map fun i => .indexOutOfRange i b.length

/-- `set_bit(b, i, v)` (40_bitstream.md R136). -/
def execSetBit (b : Bitstream) (i : Nat) (v : Bit) (s : State) : Host.Outcome State Fault Refusal :=
  onCall s fun s =>
    let r := writeBits b i [v]
    replyOrFault (indexFault b r.2) .none (setHolder r.1 s)

/-- `set_bits(b, i, seq)`: the bits before an index out of range are written (40_bitstream.md R137;
60_exceptions.md R335). -/
def execSetBits (b : Bitstream) (i : Nat) (seq : List Bit) (s : State) : Host.Outcome State Fault Refusal :=
  onCall s fun s =>
    let r := writeBits b i seq
    replyOrFault (indexFault b r.2) .none (setHolder r.1 s)

/-- `xor(a, b)` (40_bitstream.md R138). -/
def execXor (a b : Bitstream) (s : State) : Host.Outcome State Fault Refusal :=
  onCall s fun s =>
    if a.length = b.length then reply (.bits (xorBits a b)) s
    else raiseFault (.lengthMismatch a.length b.length) s

/-- `concat(a, b)` (40_bitstream.md R139). -/
def execConcat (a b : Bitstream) (s : State) : Host.Outcome State Fault Refusal :=
  onCall s (reply (.bits (concatBits a b)))

/-- `shift_right(b, k)` (40_bitstream.md R140). -/
def execShiftRight (b : Bitstream) (k : Nat) (s : State) : Host.Outcome State Fault Refusal :=
  onCall s fun s => reply .none (setHolder (shiftRightBits b k) s)

/-- `reverse(b)` (40_bitstream.md R141). -/
def execReverse (b : Bitstream) (s : State) : Host.Outcome State Fault Refusal :=
  onCall s fun s => reply .none (setHolder b.reverse s)

/-- `equal(a, b)` (40_bitstream.md R142). -/
def execEqual (a b : Bitstream) (s : State) : Host.Outcome State Fault Refusal :=
  onCall s (reply (.bool (a == b)))

/-- `to_hex_string(b)` (40_bitstream.md R144). -/
def execToHexString (b : Bitstream) (s : State) : Host.Outcome State Fault Refusal :=
  onCall s fun s => reply (.text (toHex (paddingOf Config.actual s b) b)) (notePadding s)

/-- `from_hex_string(n, s)` (40_bitstream.md R145). -/
def execFromHexString (n : Nat) (text : List Byte) (s : State) : Host.Outcome State Fault Refusal :=
  onCall s (reply (.bits (ofHex n text)))

/-- `to_char_string(b)` (40_bitstream.md R146). -/
def execToCharString (b : Bitstream) (s : State) : Host.Outcome State Fault Refusal :=
  onCall s fun s => reply (.bytes (toChars (paddingOf Config.actual s b) b)) (notePadding s)

/-- `from_char_string(n, bytes)` (40_bitstream.md R147). -/
def execFromCharString (n : Nat) (bytes : List Byte) (s : State) : Host.Outcome State Fault Refusal :=
  onCall s fun s =>
    if ceilDiv n 8 ≤ bytes.length then reply (.bits (ofChars n bytes)) s
    else raiseFault (.shortInput bytes.length (ceilDiv n 8)) s

/-- `to_word_string(b)` (40_bitstream.md R148). -/
def execToWordString (b : Bitstream) (s : State) : Host.Outcome State Fault Refusal :=
  onCall s fun s => reply (.words (toWords (paddingOf Config.actual s b) b)) (notePadding s)

/-- `from_word_string(n, words)` (40_bitstream.md R149). -/
def execFromWordString (n : Nat) (words : List Word) (s : State) : Host.Outcome State Fault Refusal :=
  onCall s fun s =>
    if ceilDiv n 16 ≤ words.length then reply (.bits (ofWords n words)) s
    else raiseFault (.shortInput words.length (ceilDiv n 16)) s

/-- `from_hex_stream(n, reader, reverse_bits)` (40_bitstream.md R150). -/
def execFromHexStream (n : Nat) (reader : List Byte) (reverseBits : Bit) (s : State) :
    Host.Outcome State Fault Refusal :=
  onCall s fun s =>
    let r := takeHexDigits (ceilDiv n 4) reader
    let s := setReader r.2 s
    if r.1.length < ceilDiv n 4 then replyError (.truncatedStream n r.1.length) s
    else reply (.bits (reverseIf reverseBits (ofHexDigits n r.1))) s

/-- `from_char_stream(n, reader, reverse_bits)` (40_bitstream.md R151). -/
def execFromCharStream (n : Nat) (reader : List Byte) (reverseBits : Bit) (s : State) :
    Host.Outcome State Fault Refusal :=
  onCall s fun s =>
    let bytes := reader.take (ceilDiv n 8)
    let s := setReader (reader.drop (ceilDiv n 8)) s
    if bytes.length < ceilDiv n 8 then replyError (.truncatedStream n bytes.length) s
    else reply (.bits (reverseIf reverseBits (ofChars n bytes))) s

/-- `to_string(b)` (40_bitstream.md R152). -/
def execToString (b : Bitstream) (s : State) : Host.Outcome State Fault Refusal :=
  onCall s (reply (.text (toBinary b)))

/-- `from_string(s)` (40_bitstream.md R153). -/
def execFromString (text : List Byte) (s : State) : Host.Outcome State Fault Refusal :=
  onCall s fun s =>
    match firstBadChar 0 text with
    | none => reply (.bits (ofBinary text)) s
    | some (j, b) => raiseFault (.badStringChar j b) s

end Sys2Proof.Machine
end

