-- ==== Sys2Proof/Machine/Chain.lean ====
section
/-!
DEFINITION. The meanings of the two chain operations (43_chain.md R251, R253). The calls they make to `init_tap`
and `load_ir_then_dr` cannot fault from TestLogicReset (R251), so they are the operations without the checks.
-/
namespace Sys2Proof.Machine

/-- The bits the count sends: N ones, then N + 1 zeros (43_chain.md R251). -/
def countSend (c : Params) : Bitstream := ones c.maxChainDevices ++ zeros (c.maxChainDevices + 1)

/-- The counting sequence up to the captured bits (43_chain.md R250, R251). -/
def countCapture (c : Params) (s : State) : Bitstream × State :=
  loadIrDr c (ones c.maxIrBits) (countSend c) (zeros (2 * c.maxChainDevices + 1)) (initTap c s)

/-- The number of devices the captured bits show: the first 0 of the window `recv[N .. 2N]` (43_chain.md R251). -/
def countIn (c : Params) (recv : Bitstream) : Option Nat := firstZero (recv.drop c.maxChainDevices)

/-- `x[NUMDEV]` for a count, -1 for none (43_chain.md R251). -/
def setNumdev (d : Option Nat) (s : State) : State :=
  { s with numdev := match d with | some d => Int.ofNat d | none => -1 }

/-- The error of a failed count, with the window size (43_chain.md R251; 60_exceptions.md R332). -/
def noTerminator (c : Params) : OpError := .noChainTerminator (c.maxChainDevices + 1)

/-- Writes `x[IDCODES]`. -/
def setIdcodes (bs : List Bitstream) (s : State) : State := { s with idcodes := bs }

/-- The count and the state it leaves (43_chain.md R251). -/
def countDevices (c : Params) (s : State) : Option Nat × State :=
  let r := countCapture c s
  (countIn c r.1, setNumdev (countIn c r.1) r.2)

/-- `get_number_of_devices()` (43_chain.md R251). -/
def numberOfDevices (c : Params) (s : State) : State :=
  let r := countDevices c s
  { r.2 with
    outcome := some (match r.1 with
      | some d => .ok (.nat d)
      | none => .error (noTerminator c)) }

/-- `get_number_of_devices()` (43_chain.md R251). -/
def execGetNumberOfDevices (s : State) : Host.Outcome State Fault Refusal :=
  onCall s (numberOfDevices Config.actual)

/-- The IDCODE scan of `d` devices after a count: what is captured, and the state (43_chain.md R253). -/
def idcodeCapture (c : Params) (d : Nat) (s : State) : Bitstream × State :=
  loadIrDr c [] (ones (32 * d)) (zeros (32 * d)) (initTap c s)

/-- `get_idcodes()` (43_chain.md R253). -/
def idcodes (c : Params) (s : State) : State :=
  let r := countDevices c s
  match r.1 with
  | none => replyError (noTerminator c) (setIdcodes [] r.2)
  | some 0 => reply (.bitstreams []) (setIdcodes [] r.2)
  | some (d + 1) =>
    let q := idcodeCapture c (d + 1) r.2
    reply (.bitstreams (idcodeSlices (d + 1) q.1)) (setIdcodes (idcodeSlices (d + 1) q.1) q.2)

/-- `get_idcodes()` (43_chain.md R253). -/
def execGetIdcodes (s : State) : Host.Outcome State Fault Refusal := onCall s (idcodes Config.actual)

end Sys2Proof.Machine
end

