-- ==== Sys2Proof/Machine/Scan.lean ====
section
/-!
DEFINITION. The meanings of the 10 operations of the transport and the scan engine (42_scan.md), in the table's
order. `send_recv_bitstream` and `load_ir_then_dr` leave their in-out operand in `holder` (log entry 3).
-/
namespace Sys2Proof.Machine

/-- `set_tck(v)` (42_scan.md R232). -/
def execSetTck (v : Bit) (s : State) : Host.Outcome State Fault Refusal :=
  onCall s fun s => reply .none (setTck v s)

/-- `get_tck()` (42_scan.md R233). -/
def execGetTck (s : State) : Host.Outcome State Fault Refusal := onCall s fun s => reply (.bit s.tck) s

/-- `pulse_tck(n)` (42_scan.md R223). -/
def execPulseTck (n : Nat) (s : State) : Host.Outcome State Fault Refusal :=
  onCall s fun s => reply .none (pulses Config.actual n s)

/-- `set_tms(v)` (42_scan.md R234). -/
def execSetTms (v : Bit) (s : State) : Host.Outcome State Fault Refusal :=
  onCall s fun s => reply .none (setTms v s)

/-- `get_tms()` (42_scan.md R235). -/
def execGetTms (s : State) : Host.Outcome State Fault Refusal := onCall s fun s => reply (.bit s.tms) s

/-- `set_tdi(v)` (42_scan.md R236). -/
def execSetTdi (v : Bit) (s : State) : Host.Outcome State Fault Refusal :=
  onCall s fun s => reply .none (setTdi v s)

/-- `get_tdi()` (42_scan.md R237). -/
def execGetTdi (s : State) : Host.Outcome State Fault Refusal := onCall s fun s => reply (.bit s.tdi) s

/-- `get_tdo()` (42_scan.md R238). -/
def execGetTdo (s : State) : Host.Outcome State Fault Refusal :=
  onCall s fun s => reply (.bit (tdoNow Config.actual s)) (noteTdoRead s)

/-- `send_recv_bitstream(send, recv, go_to_exit)` with its precondition (42_scan.md R225, R226). -/
def sendRecv (c : Params) (send recv : Bitstream) (goToExit : Bit) (s : State) : State :=
  if mayScan s.tap then
    let r := scan c send recv goToExit s
    reply .none (setHolder r.1 r.2)
  else raiseFault (.wrongTapState s.tap) (setHolder recv s)

/-- `send_recv_bitstream(send, recv, go_to_exit)` (42_scan.md R226). -/
def execSendRecvBitstream (send recv : Bitstream) (goToExit : Bit) (s : State) :
    Host.Outcome State Fault Refusal :=
  onCall s (sendRecv Config.actual send recv goToExit)

/-- `load_ir_then_dr(instruction, send, recv)` with its precondition (42_scan.md R239). -/
def loadIrThenDr (c : Params) (instruction send recv : Bitstream) (s : State) : State :=
  if mayLoad s.tap then
    let r := loadIrDr c instruction send recv s
    reply .none (setHolder r.1 r.2)
  else raiseFault (.badStartState s.tap) (setHolder recv s)

/-- `load_ir_then_dr(instruction, send, recv)` (42_scan.md R239). -/
def execLoadIrThenDr (instruction send recv : Bitstream) (s : State) : Host.Outcome State Fault Refusal :=
  onCall s (loadIrThenDr Config.actual instruction send recv)

end Sys2Proof.Machine
end

