-- ==== Sys2Proof/Machine/Svf.lean ====
section
/-!
DEFINITION. The meanings of `svf_run` and of the 14 SVF commands (44_svf.md), in the table's order. `svf_run`
starts the stream (R271); each pass of its command loop (R272) is one later step of the machine (Fetch.lean and
Step.lean; log entry 1). A command's meaning is `execute(c)` of that loop: the pointer is moved past it by the
step.
-/
namespace Sys2Proof.Machine

/-- The stream start (44_svf.md R271): the context at its start values, the pointer at 0, the text without its
comments; no pulse is issued, and the run has returned nothing yet. -/
def startRun (text : List Byte) (s : State) : State :=
  { s with
    endir := .runTestIdle
    enddr := .runTestIdle
    hir := []
    hdr := []
    tir := []
    tdr := []
    pc := 0
    text := stripComments text
    running := true
    outcome := none }

/-- `svf_run(text)` (44_svf.md R270, R271). -/
def execSvfRun (text : List Byte) (s : State) : Host.Outcome State Fault Refusal := onCall s (startRun text)

/-- `TRST ...;` has no effect (44_svf.md R274). -/
def execTrst (_operands : List Token) (s : State) : Host.Outcome State Fault Refusal := onCommand s id

/-- `PIO ...;` has no effect (44_svf.md R275). -/
def execPio (_operands : List Token) (s : State) : Host.Outcome State Fault Refusal := onCommand s id

/-- `PIOMAP ...;` has no effect (44_svf.md R276). -/
def execPiomap (_operands : List Token) (s : State) : Host.Outcome State Fault Refusal := onCommand s id

/-- `FREQUENCY ...;` has no effect (44_svf.md R277). -/
def execFrequency (_operands : List Token) (s : State) : Host.Outcome State Fault Refusal := onCommand s id

/-- `ENDIR s;` (44_svf.md R278). -/
def execEndir (d : TapState) (s : State) : Host.Outcome State Fault Refusal :=
  onCommand s fun s => { s with endir := d }

/-- `ENDDR s;` (44_svf.md R279). -/
def execEnddr (d : TapState) (s : State) : Host.Outcome State Fault Refusal :=
  onCommand s fun s => { s with enddr := d }

/-- `STATE s1 ... sk;` (44_svf.md R280). -/
def execState (first : TapState) (rest : List TapState) (s : State) : Host.Outcome State Fault Refusal :=
  onCommand s (gotoEach Config.actual (first :: rest))

/-- What a header or trailer register holds after its command: resized, then loaded where TDI is given
(44_svf.md R281). -/
def loadContext (old : Bitstream) (n : Nat) (tdi : Option (List Nibble)) : Bitstream :=
  match tdi with
  | none => resizeBits old n
  | some h => ofHexDigits n h

/-- `HIR n [TDI (h)];` (44_svf.md R281). -/
def execHir (n : Nat) (tdi : Option (List Nibble)) (s : State) : Host.Outcome State Fault Refusal :=
  onCommand s fun s => { s with hir := loadContext s.hir n tdi }

/-- `HDR n [TDI (h)];` (44_svf.md R282). -/
def execHdr (n : Nat) (tdi : Option (List Nibble)) (s : State) : Host.Outcome State Fault Refusal :=
  onCommand s fun s => { s with hdr := loadContext s.hdr n tdi }

/-- `TIR n [TDI (h)];` (44_svf.md R283). -/
def execTir (n : Nat) (tdi : Option (List Nibble)) (s : State) : Host.Outcome State Fault Refusal :=
  onCommand s fun s => { s with tir := loadContext s.tir n tdi }

/-- `TDR n [TDI (h)];` (44_svf.md R284). -/
def execTdr (n : Nat) (tdi : Option (List Nibble)) (s : State) : Host.Outcome State Fault Refusal :=
  onCommand s fun s => { s with tdr := loadContext s.tdr n tdi }

/-- `header ++ data ++ trailer` (44_svf.md R285, R286; 20_memory.md R63). -/
def payload (header data trailer : Bitstream) : Bitstream := concatBits (concatBits header data) trailer

/-- A register scan of a command: to the Shift state, the payload with TDO discarded, to the end state (44_svf.md
R285, R286). -/
def scanRegister (c : Params) (shiftState endState : TapState) (bits : Bitstream) (s : State) : State :=
  gotoTap c endState (scan c bits [] true (gotoTap c shiftState s)).2

/-- `SIR n TDI (h) ...;` (44_svf.md R285). -/
def execSir (n : Nat) (tdi : List Nibble) (s : State) : Host.Outcome State Fault Refusal :=
  onCommand s fun s =>
    scanRegister Config.actual .shiftIR s.endir (payload s.hir (ofHexDigits n tdi) s.tir) s

/-- `SDR n TDI (h) ...;` (44_svf.md R286). -/
def execSdr (n : Nat) (tdi : List Nibble) (s : State) : Host.Outcome State Fault Refusal :=
  onCommand s fun s =>
    scanRegister Config.actual .shiftDR s.enddr (payload s.hdr (ofHexDigits n tdi) s.tdr) s

/-- `RUNTEST n TCK;`: the level that holds the state, `n` pulses, and the tracker follows (44_svf.md R287). -/
def runTest (c : Params) (n : Nat) (s : State) : State :=
  updateTap n (pulses c n (setTms (s.tap == .testLogicReset) s))

/-- `RUNTEST n TCK;` (44_svf.md R287). -/
def execRuntest (n : Nat) (s : State) : Host.Outcome State Fault Refusal :=
  onCommand s (runTest Config.actual n)

end Sys2Proof.Machine
end

