-- ==== Sys2Proof/Machine/TapOps.lean ====
section
/-!
DEFINITION. The meanings of the 8 TAP operations (41_tap.md R197 to R204), in the table's order.
-/
namespace Sys2Proof.Machine

/-- `next_state(s, t)` (41_tap.md R197). -/
def execNextState (a : StateOperand) (t : Bit) (s : State) : Host.Outcome State Fault Refusal :=
  onCall s fun s =>
    match a with
    | .invalid => raiseFault .invalidState s
    | .state a => reply (.state (next a t)) s

/-- `path_of(from, to)` (41_tap.md R198). -/
def execPathOf (a d : StateOperand) (s : State) : Host.Outcome State Fault Refusal :=
  onCall s fun s =>
    match a, d with
    | .state a, .state d => reply (.states (path a d)) s
    | .invalid, _ => raiseFault .invalidState s
    | .state _, .invalid => raiseFault .invalidState s

/-- `goto_next_state(target)` (41_tap.md R199). -/
def execGotoNextState (target : StateOperand) (s : State) : Host.Outcome State Fault Refusal :=
  onCall s fun s =>
    let r := gotoNext Config.actual target s
    replyOrFault r.2 .none r.1

/-- `goto_state(target)` (41_tap.md R200). -/
def execGotoState (target : StateOperand) (s : State) : Host.Outcome State Fault Refusal :=
  onCall s fun s =>
    match target with
    | .invalid => raiseFault .invalidState s
    | .state d => reply .none (gotoTap Config.actual d s)

/-- `go_thru_tap_sequence(seq)` (41_tap.md R201). -/
def execGoThruTapSequence (seq : List StateOperand) (s : State) : Host.Outcome State Fault Refusal :=
  onCall s fun s =>
    let r := goThru Config.actual seq s
    replyOrFault r.2 .none r.1

/-- `update_state(n)` (41_tap.md R202). -/
def execUpdateState (n : Nat) (s : State) : Host.Outcome State Fault Refusal :=
  onCall s fun s => reply .none (updateTap n s)

/-- `init_tap()` (41_tap.md R203). -/
def execInitTap (s : State) : Host.Outcome State Fault Refusal :=
  onCall s fun s => reply .none (initTap Config.actual s)

/-- `paths_ok()` (41_tap.md R204). -/
def execPathsOk (s : State) : Host.Outcome State Fault Refusal := onCall s (reply (.bool pathsOk))

end Sys2Proof.Machine
end

