-- ==== Sys2Proof/Machine/Dispatch.lean ====
section
/-! DEFINITION. The meaning of each instruction: one arm per constructor of `Instr`. -/
namespace Sys2Proof.Machine

def exec (i : Instr) (s : State) : Host.Outcome State Fault Refusal :=
  match i with
  | .new n => Sys2Proof.Machine.execNew n s
  | .length b => Sys2Proof.Machine.execLength b s
  | .resize b m => Sys2Proof.Machine.execResize b m s
  | .get b k => Sys2Proof.Machine.execGet b k s
  | .setBit b k v => Sys2Proof.Machine.execSetBit b k v s
  | .setBits b k seq => Sys2Proof.Machine.execSetBits b k seq s
  | .xor a b => Sys2Proof.Machine.execXor a b s
  | .concat a b => Sys2Proof.Machine.execConcat a b s
  | .shiftRight b k => Sys2Proof.Machine.execShiftRight b k s
  | .reverse b => Sys2Proof.Machine.execReverse b s
  | .equal a b => Sys2Proof.Machine.execEqual a b s
  | .toHexString b => Sys2Proof.Machine.execToHexString b s
  | .fromHexString n t => Sys2Proof.Machine.execFromHexString n t s
  | .toCharString b => Sys2Proof.Machine.execToCharString b s
  | .fromCharString n t => Sys2Proof.Machine.execFromCharString n t s
  | .toWordString b => Sys2Proof.Machine.execToWordString b s
  | .fromWordString n ws => Sys2Proof.Machine.execFromWordString n ws s
  | .fromHexStream n r v => Sys2Proof.Machine.execFromHexStream n r v s
  | .fromCharStream n r v => Sys2Proof.Machine.execFromCharStream n r v s
  | .toString b => Sys2Proof.Machine.execToString b s
  | .fromString t => Sys2Proof.Machine.execFromString t s
  | .nextState a v => Sys2Proof.Machine.execNextState a v s
  | .pathOf a d => Sys2Proof.Machine.execPathOf a d s
  | .gotoNextState d => Sys2Proof.Machine.execGotoNextState d s
  | .gotoState d => Sys2Proof.Machine.execGotoState d s
  | .goThruTapSequence ds => Sys2Proof.Machine.execGoThruTapSequence ds s
  | .updateState n => Sys2Proof.Machine.execUpdateState n s
  | .initTap => Sys2Proof.Machine.execInitTap s
  | .pathsOk => Sys2Proof.Machine.execPathsOk s
  | .setTck v => Sys2Proof.Machine.execSetTck v s
  | .getTck => Sys2Proof.Machine.execGetTck s
  | .pulseTck n => Sys2Proof.Machine.execPulseTck n s
  | .setTms v => Sys2Proof.Machine.execSetTms v s
  | .getTms => Sys2Proof.Machine.execGetTms s
  | .setTdi v => Sys2Proof.Machine.execSetTdi v s
  | .getTdi => Sys2Proof.Machine.execGetTdi s
  | .getTdo => Sys2Proof.Machine.execGetTdo s
  | .sendRecvBitstream a b v => Sys2Proof.Machine.execSendRecvBitstream a b v s
  | .loadIrThenDr k a b => Sys2Proof.Machine.execLoadIrThenDr k a b s
  | .getNumberOfDevices => Sys2Proof.Machine.execGetNumberOfDevices s
  | .getIdcodes => Sys2Proof.Machine.execGetIdcodes s
  | .svfRun t => Sys2Proof.Machine.execSvfRun t s
  | .trst ts => Sys2Proof.Machine.execTrst ts s
  | .pio ts => Sys2Proof.Machine.execPio ts s
  | .piomap ts => Sys2Proof.Machine.execPiomap ts s
  | .frequency ts => Sys2Proof.Machine.execFrequency ts s
  | .endir d => Sys2Proof.Machine.execEndir d s
  | .enddr d => Sys2Proof.Machine.execEnddr d s
  | .state d ds => Sys2Proof.Machine.execState d ds s
  | .hir n h _ => Sys2Proof.Machine.execHir n h s
  | .hdr n h _ => Sys2Proof.Machine.execHdr n h s
  | .tir n h _ => Sys2Proof.Machine.execTir n h s
  | .tdr n h _ => Sys2Proof.Machine.execTdr n h s
  | .sir n h _ => Sys2Proof.Machine.execSir n h s
  | .sdr n h _ => Sys2Proof.Machine.execSdr n h s
  | .runtest n => Sys2Proof.Machine.execRuntest n s

end Sys2Proof.Machine
end

