-- ==== Sys2Proof/Machine/Fetch.lean ====
section
/-!
DEFINITION. The parts of a step around the meaning of an instruction: reading the SVF text at the command pointer,
the poll, the split and the decoding of a command (44_svf.md R272), the taking of a call (60_exceptions.md R350;
70_reset_and_hazards.md R371), and where the bytes of a next instruction are put (log entry 16).
-/
namespace Sys2Proof.Machine

/-- `MemRead(addr, n)`: bytes of the SVF text (00_scope.md R14, 20_memory.md R64). -/
def memRead (addr n : Nat) (s : State) : List Byte := (s.text.drop addr).take n

/-- The bytes not yet consumed (10_state.md R37). -/
def remaining (s : State) : List Byte := memRead s.pc (s.text.length - s.pc) s

/-- `x[pc] <- target` (00_scope.md R15). -/
def setPc (target : Nat) (s : State) : State := { s with pc := target }

/-- What one pass of the command loop finds: the run has ended in this state, or this command is to be executed
in this state and lies before this offset. -/
inductive Fetched where
  | ended (s : State)
  | command (i : Instr) (next : Nat) (s : State)
deriving DecidableEq, Repr

/-- The command at the pointer, after the poll has answered (44_svf.md R272). -/
def fetchCommand (c : Params) (s : State) : Fetched :=
  match splitCommand (remaining s) with
  | none => .ended (errorExit c .unterminatedCommand s.pc (firstTokenText (remaining s)) s)
  | some (command, _) =>
    match decodeCommand c.optionalFields command with
    | .error e => .ended (errorExit c e s.pc (firstTokenText command) s)
    | .ok i => .command i (s.pc + command.length + 1) s

/-- One pass of the command loop up to the execution of its command (44_svf.md R272): the normal end, the poll,
the split, the decoding. -/
def fetch (c : Params) (s : State) : Fetched :=
  if (remaining s).all isSpace then .ended (endRun (.ok .none) s)
  else if s.cancel then .ended (cancelExit c (notePoll c s))
  else fetchCommand c (notePoll c s)

/-- The block takes the call the host has made. -/
def takeCall (s : State) : State := { s with call := none }

/-- Puts the bytes of one instruction where the next step fetches it (log entry 16): an SVF command as the text of
a running stream that the host does not cancel, an operation call as the host's call. -/
def placeText (bytes : List Byte) (s : State) : State :=
  if isSvfText bytes then
    { s with text := stripComments bytes, pc := 0, running := true, call := none, cancel := false }
  else { s with running := false, call := some bytes }

end Sys2Proof.Machine
end

