-- ==== Sys2Proof/Machine/Step.lean ====
section
/-!
DEFINITION. One step of the machine (log entry 1). A stuck block takes none (60_exceptions.md R333). While an
`svf_run` is running a step is one pass of its command loop (44_svf.md R272), and a second call is refused
(60_exceptions.md R352). Otherwise the block waits for a call (70_reset_and_hazards.md R371) and a step is one
operation call.
-/
namespace Sys2Proof.Machine

/-- The step. -/
def step (s : State) : Host.Outcome State Fault Refusal :=
  match s.fault with
  | some f => .fault (.stuck f)
  | none =>
    if s.running then
      if s.call.isSome then .refused .concurrentUse
      else
        match fetch Config.actual s with
        | .ended s' => .next s'
        | .command i after s' =>
          match exec i s' with
          | .next t => .next (setPc after t)
          | .fault r => .fault r
          | .refused r => .refused r
    else
      match s.call with
      | none => .next s
      | some bytes =>
        match decodeCall bytes with
        | .error e => .refused (.badCall e)
        | .ok i => exec i (takeCall s)

/-- The state with the instruction whose bits are `w` where the next step fetches it. -/
def State.withFetchWord (s : State) (nbits w : Nat) : State := placeText (tableBytes nbits w) s

end Sys2Proof.Machine
end

