-- ==== Sys2Proof/WellFormed.lean ====
section
/-!
DEFINITION. Which terms of `Instr` stand for instructions the encodings of the spec can write: the bounds of
numbers (30_encoding.md R104, 42_scan.md R220), the tokens of operands that are not read (R95 to R98), and scan
fields named at most once (R108). `Invalid` as a state operand is well-formed: it is an operand the block answers
with a fault (41_tap.md R190).
-/
namespace Sys2Proof

/-- A byte that can stand in a word token: it ends no token, no command, and starts no comment by itself
(30_encoding.md R95 to R98). -/
def wordByte (b : Byte) : Bool := !isSpace b && b != openParen && b != semicolon && b != bang

/-- A byte that can stand inside a parenthesised token (30_encoding.md R95, R96, R98). -/
def parenByte (b : Byte) : Bool := b != closeParen && b != semicolon && b != bang

/-- Whether the bytes hold the `//` of a comment (30_encoding.md R95). -/
def hasDoubleSlash : List Byte → Bool
  | [] => false
  | b :: rest => (b == slash && rest.head? == some slash) || hasDoubleSlash rest

/-- A token that can be written and read back. -/
def Token.wellFormed : Token → Bool
  | .word bytes => !bytes.isEmpty && bytes.all wordByte && !hasDoubleSlash bytes
  | .paren inside => inside.all parenByte && !hasDoubleSlash inside
  | .unclosed _ => false

/-- No field name stands twice (30_encoding.md R108). -/
def distinctFields : OptFields → Bool
  | [] => true
  | p :: rest => !(rest.any fun q => q.1 == p.1) && distinctFields rest

/-- The numbers and fields of a header, trailer or scan command. -/
def scanFieldsWellFormed (n : Nat) (others : OptFields) : Bool :=
  decide (n ≤ numericFieldMax) && distinctFields others

/-- The well-formed instructions. -/
def Instr.wellFormed : Instr → Bool
  | .pulseTck n => decide (n < u32Bound)
  | .trst ts | .pio ts | .piomap ts | .frequency ts => ts.all Token.wellFormed
  | .hir n _ others | .hdr n _ others | .tir n _ others | .tdr n _ others => scanFieldsWellFormed n others
  | .sir n _ others | .sdr n _ others => scanFieldsWellFormed n others
  | .runtest n => decide (n ≤ numericFieldMax)
  | .new _ | .length _ | .resize _ _ | .get _ _ | .setBit _ _ _ | .setBits _ _ _ | .xor _ _ => true
  | .concat _ _ | .shiftRight _ _ | .reverse _ | .equal _ _ | .toHexString _ | .fromHexString _ _ => true
  | .toCharString _ | .fromCharString _ _ | .toWordString _ | .fromWordString _ _ => true
  | .fromHexStream _ _ _ | .fromCharStream _ _ _ | .toString _ | .fromString _ => true
  | .nextState _ _ | .pathOf _ _ | .gotoNextState _ | .gotoState _ | .goThruTapSequence _ => true
  | .updateState _ | .initTap | .pathsOk | .setTck _ | .getTck | .setTms _ | .getTms => true
  | .setTdi _ | .getTdi | .getTdo | .sendRecvBitstream _ _ _ | .loadIrThenDr _ _ _ => true
  | .getNumberOfDevices | .getIdcodes | .svfRun _ | .endir _ | .enddr _ | .state _ _ => true

/-- Whether an instruction has no field that `SVF_OPTIONAL_FIELDS = Reject` rejects (30_encoding.md R108). -/
def Instr.hasNoOptionalFields : Instr → Bool
  | .hir _ _ others | .hdr _ _ others | .tir _ _ others | .tdr _ _ others => others.isEmpty
  | .sir _ _ others | .sdr _ _ others => others.isEmpty
  | _ => true

end Sys2Proof
end

