-- ==== Sys2Proof/Safety.lean ====
section
/-!
DEFINITION. The terms in which claims about runs are stated: when the block takes a call, the invariant of its
registers, what an operation on the transport may change, the pulses an operation adds to the trace.
-/
namespace Sys2Proof.Machine

/-- The block takes an operation call: it is not stuck and runs no stream. -/
def State.ready (s : State) : Prop := s.fault = none ∧ s.running = false

/-- The block is about to make a pass of the command loop: it is not stuck, a stream runs, and the host has made
no second call. -/
def State.inStream (s : State) : Prop := s.fault = none ∧ s.running = true ∧ s.call = none

/-- `x[NUMDEV]` holds a legal value (10_state.md R38). -/
def State.numdevLegal (s : State) : Prop :=
  s.numdev = -1 ∨ (0 ≤ s.numdev ∧ s.numdev ≤ Int.ofNat Config.actual.maxChainDevices)

/-- Every element of `x[IDCODES]` is 32 bits long (10_state.md R39). -/
def State.idcodesLegal (s : State) : Prop := ∀ b ∈ s.idcodes, b.length = 32

/-- `x[pc]` is an offset of the text or its end (10_state.md R46). -/
def State.pcLegal (s : State) : Prop := s.pc ≤ s.text.length

/-- The legal values of 10_state.md R46. -/
def State.inv (s : State) : Prop := s.numdevLegal ∧ s.idcodesLegal ∧ s.pcLegal

/-- `t` differs from `s` at most in the tracker, the TMS and TDI levels, the trace and what has been asked of the
environment. -/
def transportOnly (s t : State) : Prop :=
  t = { s with tap := t.tap, tms := t.tms, tdi := t.tdi, trace := t.trace, accesses := t.accesses }

/-- The pulses `t` has beyond those of `s`. -/
def newPulses (s t : State) : List PulseEvent := t.trace.drop s.trace.length

/-- The TMS levels of those pulses. -/
def newTms (s t : State) : List Bit := (newPulses s t).map PulseEvent.tms

/-- The TDI levels of those pulses. -/
def newTdi (s t : State) : List Bit := (newPulses s t).map PulseEvent.tdi

/-- The chain's answers to those pulses. -/
def newTdo (s t : State) : List Bit := (newPulses s t).map PulseEvent.tdo

/-- TMS and TDI are left at the levels of the last pulse, or where they were if there is none (42_scan.md R224,
R231). -/
def pinsHold (s t : State) : Prop :=
  t.tms = (newTms s t).getLastD s.tms ∧ t.tdi = (newTdi s t).getLastD s.tdi

/-- `t` has all the pulses of `s`, and perhaps more after them. -/
def traceGrows (s t : State) : Prop := s.trace <+: t.trace

/-- The tracker has followed the pulses issued (10_state.md R32). -/
def trackerFollows (s t : State) : Prop := t.tap = walk s.tap (newTms s t)

/-- The TMS levels of a scan of `n` bits (42_scan.md R226). -/
def scanTms (n : Nat) (goToExit : Bit) : List Bit :=
  (List.range n).map fun i => goToExit && i + 1 == n

/-- The TMS levels of a list of routes, each from where the one before ended (44_svf.md R280). -/
def routesTms (a : TapState) : List TapState → List Bit
  | [] => []
  | d :: ds => route a d ++ routesTms d ds

/-- The TMS levels of the instruction phase of `load_ir_then_dr` from a state, for `i` instruction bits
(42_scan.md R239). -/
def irTms (a : TapState) (i : Nat) : List Bit :=
  if i = 0 then [] else route a .shiftIR ++ scanTms i true ++ route .exit1IR .updateIR

/-- The state the instruction phase ends in. -/
def afterIr (a : TapState) (i : Nat) : TapState := if i = 0 then a else .updateIR

/-- The TMS levels of the data phase from a state, for `n` bits (42_scan.md R239). -/
def drTms (a : TapState) (n : Nat) : List Bit :=
  if n = 0 then [] else route a .shiftDR ++ scanTms n true ++ route .exit1DR .updateDR

/-- The state the data phase ends in. -/
def afterDr (a : TapState) (n : Nat) : TapState := if n = 0 then a else .updateDR

/-- The TMS levels of `load_ir_then_dr` (42_scan.md R239). -/
def loadTms (a : TapState) (i n : Nat) : List Bit :=
  irTms a i ++ drTms (afterIr a i) n ++ route (afterDr (afterIr a i) n) .runTestIdle

/-- The TMS levels of a register scan of a command, for a payload of `n` bits (44_svf.md R285, R286). -/
def scanRegisterTms (a shiftState exitState endState : TapState) (n : Nat) : List Bit :=
  route a shiftState ++ scanTms n true ++ route (if n = 0 then shiftState else exitState) endState

/-- The TDI levels of a scan of `n` bits: `send`, then 0s (42_scan.md R226). -/
def scanTdi (send : Bitstream) (n : Nat) : List Bit := (List.range n).map fun i => send.getD i false

/-- The TDI levels of a route: the level `v` last driven, on every pulse (42_scan.md R224). -/
def routeTdi (v : Bit) (a d : TapState) : List Bit := List.replicate (route a d).length v

/-- The TDI levels of the instruction phase of `load_ir_then_dr` from a state, TDI being at `v` (42_scan.md R224,
R239). -/
def irTdi (v : Bit) (a : TapState) (ir : Bitstream) : List Bit :=
  if ir.length = 0 then [] else routeTdi v a .shiftIR ++ ir ++ routeTdi (ir.getLastD v) .exit1IR .updateIR

/-- The TDI levels of the data phase that drives `bits` (42_scan.md R224, R239). -/
def drTdi (v : Bit) (a : TapState) (bits : List Bit) : List Bit :=
  if bits.length = 0 then []
  else routeTdi v a .shiftDR ++ bits ++ routeTdi (bits.getLastD v) .exit1DR .updateDR

/-- The TDI levels of `load_ir_then_dr` that drives `ir` and then `bits` (42_scan.md R224, R239). -/
def loadTdi (v : Bit) (a : TapState) (ir : Bitstream) (bits : List Bit) : List Bit :=
  irTdi v a ir ++ drTdi (ir.getLastD v) (afterIr a ir.length) bits ++
    routeTdi (bits.getLastD (ir.getLastD v)) (afterDr (afterIr a ir.length) bits.length) .runTestIdle

/-- The TDI levels of a register scan of a command (42_scan.md R224; 44_svf.md R285, R286). -/
def scanRegisterTdi (v : Bit) (a shiftState exitState endState : TapState) (bits : List Bit) : List Bit :=
  routeTdi v a shiftState ++ bits ++
    routeTdi (bits.getLastD v) (if bits.length = 0 then shiftState else exitState) endState

/-- The states in which a TMS level holds the TAP (41_tap.md R196). -/
def stable (a : TapState) : Bool := next a false == a || next a true == a

/-- An outcome of the machine with its next state changed. -/
def mapNext (f : State → State) : Host.Outcome State Fault Refusal → Host.Outcome State Fault Refusal
  | .next s => .next (f s)
  | .fault r => .fault r
  | .refused r => .refused r

/-- The operations that can raise a fault (60_exceptions.md R331). -/
def mayFault : Instr → Bool
  | .get _ _ | .setBit _ _ _ | .setBits _ _ _ | .xor _ _ | .fromCharString _ _ | .fromWordString _ _ => true
  | .fromString _ | .nextState _ _ | .pathOf _ _ | .gotoNextState _ | .gotoState _ => true
  | .goThruTapSequence _ | .sendRecvBitstream _ _ _ | .loadIrThenDr _ _ _ => true
  | _ => false

/-- The instructions that navigate or scan: they pulse, and the tracker and TMS follow (10_state.md R32; 42_scan.md
R224, R231). -/
def moves : Instr → Bool
  | .gotoNextState _ | .gotoState _ | .goThruTapSequence _ | .initTap | .sendRecvBitstream _ _ _ => true
  | .loadIrThenDr _ _ _ | .getNumberOfDevices | .getIdcodes | .state _ _ | .sir _ _ _ | .sdr _ _ _ => true
  | .runtest _ => true
  | _ => false

/-- The instructions that drive TDI (42_scan.md R228, R236). -/
def drivesTdi : Instr → Bool
  | .setTdi _ | .sendRecvBitstream _ _ _ | .loadIrThenDr _ _ _ | .getNumberOfDevices | .getIdcodes => true
  | .sir _ _ _ | .sdr _ _ _ => true
  | _ => false

/-- The text of a scan field's name, `none` being TDI (30_encoding.md R102). -/
def fieldText : Option OptField → List Byte
  | none => chars ['T', 'D', 'I']
  | some o => o.text

/-- A scan-field list as tokens: each field's name and what stands in its parentheses (30_encoding.md R108). -/
def fieldListTokens (fs : List (Option OptField × List Byte)) : List Token :=
  fs.flatMap fun p => [.word (fieldText p.1), .paren p.2]

/-- A scan-field list without an error: no name twice, and none that `Reject` rejects (30_encoding.md R108). -/
def fieldListReadable (optional : OptionalFields) (fs : List (Option OptField × List Byte)) : Prop :=
  (fs.map Prod.fst).Nodup ∧ (optional = .reject → ∀ p ∈ fs, p.1 = none)

/-- Each of the four serialisations of a Bitstream is read back, at its own length, whatever the padding bits
(40_bitstream.md R155). Laws/Bitstream proves it of every Bitstream. -/
def roundTrips (b : Bitstream) : Prop :=
  ofBinary (toBinary b) = b ∧ ∀ padding : Nat → Bit,
    ofHex b.length (toHex padding b) = b ∧ ofChars b.length (toChars padding b) = b ∧
    ofWords b.length (toWords padding b) = b

/-- The outcomes a run of an SVF stream can return (44_svf.md R290). -/
def OpOutcome.ofStream : OpOutcome → Bool
  | .ok v => v == .none
  | .cancelled => true
  | .error (.svf _ _ _) => true
  | .error (.truncatedStream _ _) => false
  | .error (.noChainTerminator _) => false

end Sys2Proof.Machine
end

