-- ==== Sys2Proof/Certificates/Slice0/Obligations.lean ====
section
/-!
DEFINITION. The statements for the provers. Each docstring names the rules of spec/ it formalises. A statement
about a free value (a TDO answer, a poll's answer, a padding bit, a pin level at reset, an OPEN parameter) holds
whatever it is.
-/
open Sys2Proof Sys2Proof.Machine

/-! ## Encodings -/

/-- Every well-formed instruction is decoded from the bytes the encoder writes for it (30_encoding.md R107, R112;
for operation calls the text of log entry 2). With `SVF_OPTIONAL_FIELDS = Reject` this holds of those without an
optional field (R108). -/
def Obligations.DecodeUndoesEncode : Prop :=
  ∀ i : Instr, i.wellFormed = true →
    decodeText .ignore (encode i) = some i ∧
    (i.hasNoOptionalFields = true → decodeText .reject (encode i) = some i)

/-- Whatever bytes the decoder accepts, it gives a well-formed instruction, and none with an optional field where
those are rejected (30_encoding.md R95 to R98, R104, R108). -/
def Obligations.DecoderGivesWellFormed : Prop :=
  ∀ (optional : OptionalFields) (bytes : List Byte) (i : Instr), decodeText optional bytes = some i →
    i.wellFormed = true ∧ (optional = .reject → i.hasNoOptionalFields = true)

/-- Texts written out from the spec's grammar decode to the instructions they stand for (30_encoding.md R107,
R112; 44_svf.md examples). -/
def Obligations.TextsOfTheSpecDecode : Prop :=
  decodeText .ignore (chars ['S', 'I', 'R', ' ', '8', ' ', 'T', 'D', 'I', ' ', '(', 'A', 'A', ')', ';']) =
    some (.sir 8 [0xA, 0xA] []) ∧
  decodeText .ignore (chars ['E', 'N', 'D', 'I', 'R', ' ', 'I', 'R', 'P', 'A', 'U', 'S', 'E', ';']) =
    some (.endir .pauseIR) ∧
  decodeText .ignore (chars ['R', 'U', 'N', 'T', 'E', 'S', 'T', ' ', '1', '0', '0', ' ', 'T', 'C', 'K', ';']) =
    some (.runtest 100) ∧
  decodeText .ignore (chars ['g', 'e', 't', '_', 't', 'd', 'o', ';']) = some .getTdo

/-- A comment runs from the first `!` or `//` of a line to its end, and the line feed is kept; a comment on the last
line, without a line feed, goes to the end of the text; a line without a comment is kept (30_encoding.md R95). -/
def Obligations.CommentsAreStripped : Prop :=
  ∀ a b c : List Byte, a.all (fun x => x != lineFeed && x != bang) = true → b.all (fun x => x != lineFeed) = true →
    (hasDoubleSlash a = false →
      stripComments a = a ∧ stripComments (a ++ lineFeed :: c) = a ++ lineFeed :: stripComments c ∧
      stripComments (a ++ bang :: b) = a ∧
      stripComments (a ++ bang :: b ++ lineFeed :: c) = a ++ lineFeed :: stripComments c) ∧
    (hasDoubleSlash (a ++ [slash]) = false →
      stripComments (a ++ slash :: slash :: b) = a ∧
      stripComments (a ++ slash :: slash :: b ++ lineFeed :: c) = a ++ lineFeed :: stripComments c)

/-- A malformed command is rejected by the name of the first error in token order: no token, another keyword, too few
operands, a wrong number, state name, field name or hex field, a token too many, a field given twice or rejected, TDI
missing after the list of a scan, and, where the token reached is an unclosed parenthesis, `MalformedBadHexField`
(30_encoding.md R98, R100, R103 to R105, R107 to R111; 60_exceptions.md R340). That an unclosed parenthesis is reported
where it is reached is the model's choice (log entry 13), as is that a field's name is checked before its hex field
(log entry 23). -/
def Obligations.MalformedCommandsAreNamed : Prop :=
  ∀ (optional : OptionalFields) (t : Token) (ts : List Token),
    let at_ (e : SvfError) : Except SvfError Instr := .error (if t.isUnclosed then .badHexField else e)
    decodeSvfTokens optional [] = .error .emptyCommand ∧
    ((∀ k : SvfKeyword, t ≠ .word k.text) → decodeSvfTokens optional (t :: ts) = at_ .unknownCommand) ∧
    (∀ k : SvfKeyword, k ∉ [.trst, .pio, .piomap, .frequency] →
      decodeSvfTokens optional [.word k.text] = .error .missingField) ∧
    (∀ k : SvfKeyword, k ∈ [.trst, .pio, .piomap, .frequency] → (∃ x ∈ ts, x.isUnclosed = true) →
      decodeSvfTokens optional (.word k.text :: ts) = .error .badHexField) ∧
    (∀ k : SvfKeyword, k ∈ [.endir, .enddr] →
      (stateName? t = none → decodeSvfTokens optional (.word k.text :: t :: ts) = at_ .badStateName) ∧
      ∀ d : TapState, decodeSvfTokens optional (.word k.text :: stateNameToken d :: t :: ts) = at_ .unexpectedToken) ∧
    (∀ ds : List TapState, stateName? t = none →
      decodeSvfTokens optional (.word SvfKeyword.state.text :: (ds.map stateNameToken ++ t :: ts)) =
        at_ .badStateName) ∧
    (∀ k : SvfKeyword, k ∈ [.hir, .hdr, .tir, .tdr, .sir, .sdr, .runtest] → svfNumber? t = none →
      decodeSvfTokens optional (.word k.text :: t :: ts) = at_ .badNumber) ∧
    ∀ (u : Token) (n : Nat), svfNumber? u = some n →
      (let runtest (rest : List Token) := decodeSvfTokens optional (.word SvfKeyword.runtest.text :: u :: rest)
       let tck : Token := .word (chars ['T', 'C', 'K'])
       runtest [] = .error .missingField ∧ (t ≠ tck → runtest (t :: ts) = at_ .unexpectedToken) ∧
       runtest (tck :: t :: ts) = at_ .unexpectedToken) ∧
      ∀ k : SvfKeyword, k ∈ [.hir, .hdr, .tir, .tdr, .sir, .sdr] →
        ∀ fs : List (Option OptField × List Byte), fieldListReadable optional fs →
          let names := fs.map Prod.fst
          let after (rest : List Token) := decodeSvfTokens optional (.word k.text :: u :: (fieldListTokens fs ++ rest))
          ((∀ f, t ≠ .word (fieldText f)) → after (t :: ts) = at_ .unexpectedToken) ∧
          (∀ f ∈ names, after (.word (fieldText f) :: ts) = .error .duplicateField) ∧
          (∀ f, f ∉ names →
            (f ≠ none → optional = .reject → after (.word (fieldText f) :: ts) = .error .rejectedField) ∧
            (f = none ∨ optional = .ignore →
              after [.word (fieldText f)] = .error .missingField ∧
              ((∀ h, t ≠ .paren h) → after (.word (fieldText f) :: t :: ts) = .error .badHexField))) ∧
          (k ∈ [.sir, .sdr] → none ∉ names → after [] = .error .missingField)

/-! ## Steps -/

/-- When the bytes of the host's call decode to an instruction, a step runs it, the call having been taken
(60_exceptions.md R350; 70_reset_and_hazards.md R371). -/
def Obligations.StepRunsTheCall : Prop :=
  ∀ (s : State) (bytes : List Byte) (i : Instr), s.ready → s.call = some bytes → decodeCall bytes = .ok i →
    step s = exec i { s with call := none }

/-- When the bytes of the text at the command pointer, up to the next `;`, decode to a command and the poll does
not cancel, a step runs it after the poll and moves the pointer past the `;` (44_svf.md R272). -/
def Obligations.StepRunsTheCommand : Prop :=
  ∀ (s : State) (command rest : List Byte) (i : Instr), s.inStream → s.cancel = false →
    s.text.drop s.pc = command ++ semicolon :: rest → semicolon ∉ command →
    decodeCommand Config.optionalFields command = .ok i →
    step s = mapNext (fun t => { t with pc := s.pc + command.length + 1 })
      (exec i { s with
        cancel := Config.cancel s.pins s.trace s.accesses
        accesses := .poll :: s.accesses })

/-- The encoded text of any instruction, placed where the next step fetches it, is run by that step (44_svf.md
R272; log entry 16). -/
def Obligations.PlacedInstructionRuns : Prop :=
  ∀ (i : Instr) (s : State), i.wellFormed = true → i.hasNoOptionalFields = true → s.fault = none →
    (i.isSvf = false → step (placeText (encode i) s) = exec i { s with running := false, call := none }) ∧
    (i.isSvf = true →
      step (placeText (encode i) s) = mapNext (fun t => { t with pc := (encode i).length })
        (exec i { s with
          text := encode i
          pc := 0
          running := true
          call := none
          cancel := Config.cancel s.pins s.trace s.accesses
          accesses := .poll :: s.accesses }))

/-- A block whose fault mark is set takes no step and accepts no operation (60_exceptions.md R333). -/
def Obligations.StuckBlockTakesNoStep : Prop :=
  ∀ (s : State) (f : FaultCode), s.fault = some f →
    step s = .fault (.stuck f) ∧ ∀ i : Instr, exec i s = .fault (.stuck f)

/-- An operation called while a stream runs is refused (60_exceptions.md R352). -/
def Obligations.ConcurrentUseIsRefused : Prop :=
  ∀ s : State, s.fault = none → s.running = true →
    (s.call ≠ none → step s = .refused .concurrentUse) ∧
    ∀ i : Instr, i.isSvf = false → exec i s = .refused .concurrentUse

/-- With no call the block waits; a call that is none of the operations is refused (70_reset_and_hazards.md R371;
00_scope.md R3; the refusal is the model's, log entry 18). -/
def Obligations.BlockWaitsForACall : Prop :=
  ∀ s : State, s.ready →
    (s.call = none → step s = .next s) ∧
    ∀ bytes e, s.call = some bytes → decodeCall bytes = .error e → step s = .refused (.badCall e)

/-! ## Reset and the whole machine -/

/-- The registers after reset (10_state.md R46, R47). The pin levels are free (R43) and not stated. -/
def Obligations.ResetRegisters : Prop :=
  State.reset.tap = .testLogicReset ∧ State.reset.endir = .runTestIdle ∧ State.reset.enddr = .runTestIdle ∧
  State.reset.hir = [] ∧ State.reset.hdr = [] ∧ State.reset.tir = [] ∧ State.reset.tdr = [] ∧
  State.reset.numdev = -1 ∧ State.reset.idcodes = [] ∧ State.reset.pc = 0 ∧ State.reset.fault = none ∧
  State.reset.trace = []

/-- The registers hold legal values at reset (10_state.md R46). -/
def Obligations.ResetRegistersAreLegal : Prop := State.reset.inv

/-- Every step keeps the registers at legal values: the device count in -1, 0 .. N, every IDCODE 32 bits long, the
command pointer in the text (10_state.md R37, R38, R39, R46). -/
def Obligations.StepKeepsRegistersLegal : Prop :=
  ∀ s t : State, s.inv → step s = .next t → t.inv

/-- No step takes a pulse out of the trace or changes one (10_state.md R30; 42_scan.md R221). -/
def Obligations.StepOnlyAddsPulses : Prop := ∀ s t : State, step s = .next t → traceGrows s t

/-- The tracker is the state reached by applying the transition table to the pulses issued, for every instruction
but `pulse_tck` and `update_state`, which a caller must pair (10_state.md R32; 70_reset_and_hazards.md R380,
R381). -/
def Obligations.TrackerFollowsPulses : Prop :=
  ∀ (i : Instr) (s t : State), (∀ n, i ≠ .pulseTck n) → (∀ n, i ≠ .updateState n) → exec i s = .next t →
    traceGrows s t ∧ trackerFollows s t

/-- Each register is written only by the operations the spec names for it: the fault mark by those that can fault,
which then return nothing; the tracker by those that pulse it along and by `update_state`; the TMS and TDI levels by
those that drive them; the trace by those that pulse (10_state.md R32 to R40, R43, R46; 60_exceptions.md R331). -/
def Obligations.RegistersHaveTheirWriters : Prop :=
  ∀ (i : Instr) (s t : State), exec i s = .next t →
    ((∀ x, i ≠ .svfRun x) →
      ((∀ d, i ≠ .endir d) → t.endir = s.endir) ∧ ((∀ d, i ≠ .enddr d) → t.enddr = s.enddr) ∧
      ((∀ n h o, i ≠ .hir n h o) → t.hir = s.hir) ∧ ((∀ n h o, i ≠ .hdr n h o) → t.hdr = s.hdr) ∧
      ((∀ n h o, i ≠ .tir n h o) → t.tir = s.tir) ∧ ((∀ n h o, i ≠ .tdr n h o) → t.tdr = s.tdr) ∧
      t.pc = s.pc ∧ t.text = s.text ∧ t.running = s.running) ∧
    (i ≠ .getNumberOfDevices → i ≠ .getIdcodes → t.numdev = s.numdev) ∧
    (i ≠ .getIdcodes → t.idcodes = s.idcodes) ∧
    (mayFault i = false → t.fault = none) ∧ (t.fault ≠ none → t.outcome = none) ∧
    (moves i = false → (∀ n, i ≠ .updateState n) → t.tap = s.tap) ∧
    (moves i = false → (∀ v, i ≠ .setTms v) → t.tms = s.tms) ∧
    (drivesTdi i = false → t.tdi = s.tdi) ∧
    (moves i = false → (∀ n, i ≠ .pulseTck n) → t.trace = s.trace) ∧
    ((∀ v, i ≠ .setTck v) → t.tck = s.tck) ∧
    t.call = s.call ∧ t.cancel = s.cancel

/-- No operation reads what an earlier one returned: with another outcome in the state an operation call gives the
very same result, and a command of a stream, which returns nothing itself, the same with that outcome kept
(10_state.md R41). -/
def Obligations.OutcomeIsNotRead : Prop :=
  ∀ (i : Instr) (s : State) (o : Option OpOutcome),
    (i.isSvf = false → exec i { s with outcome := o } = exec i s) ∧
    (i.isSvf = true → exec i { s with outcome := o } = mapNext (fun t => { t with outcome := o }) (exec i s))

/-! ## Streams -/

/-- A pass of the command loop always ends in a next state, and raises no fault (44_svf.md R290). -/
def Obligations.StreamNeverFaults : Prop :=
  ∀ s : State, s.inStream → ∃ t, step s = .next t ∧ t.fault = none

/-- Every run of a stream ends within as many steps as bytes are left and one, with `Ok`, a malformed-input error
or `Cancelled` (44_svf.md R272, R290; 60_exceptions.md R345). -/
def Obligations.StreamEnds : Prop :=
  ∀ s : State, s.inStream → ∃ t o, core.run (s.text.length - s.pc + 1) s = .next t ∧ t.running = false ∧
    t.fault = none ∧ t.outcome = some o ∧ o.ofStream = true

/-- When only whitespace is left, the stream ends with `Ok` and without a poll (30_encoding.md R101; 44_svf.md
R272). -/
def Obligations.StreamEndsNormally : Prop :=
  ∀ s : State, s.inStream → (s.text.drop s.pc).all isSpace = true →
    step s = .next { s with running := false, outcome := some (.ok .none) }

/-- A poll that answers "cancelled" stops the stream before the command: five pulses at TMS 1, the tracker in
TestLogicReset, the outcome `Cancelled`, the pointer and the context as they were (44_svf.md R289; 60_exceptions.md
R344). -/
def Obligations.CancelledStreamEnds : Prop :=
  ∀ s : State, s.inStream → s.cancel = true → (s.text.drop s.pc).all isSpace = false →
    ∃ t, step s = .next t ∧ t.outcome = some .cancelled ∧ t.running = false ∧ t.tap = .testLogicReset ∧
      t.tms = true ∧ t.tdi = s.tdi ∧
      traceGrows s t ∧ newTms s t = [true, true, true, true, true] ∧
      transportOnly { s with running := false, outcome := t.outcome, cancel := t.cancel } t

/-- A command that does not decode ends the stream: five pulses at TMS 1, the tracker in TestLogicReset, the error
with the offset of the command and its keyword, and nothing undone (44_svf.md R273; 60_exceptions.md R332). The keyword
is the text of the first token, which is empty where that is an unclosed parenthesis: the model's choice (log entry
13). -/
def Obligations.MalformedCommandEndsStream : Prop :=
  ∀ (s : State) (command rest : List Byte) (e : SvfError), s.inStream → s.cancel = false →
    s.text.drop s.pc = command ++ semicolon :: rest → semicolon ∉ command →
    decodeCommand Config.optionalFields command = .error e →
    ∃ t, step s = .next t ∧ t.outcome = some (.error (.svf e s.pc (firstTokenText command))) ∧
      t.running = false ∧ t.tap = .testLogicReset ∧
      t.tms = true ∧ t.tdi = s.tdi ∧
      traceGrows s t ∧ newTms s t = [true, true, true, true, true] ∧
      transportOnly { s with running := false, outcome := t.outcome, cancel := t.cancel } t

/-- A text whose last command has no `;` ends the stream with `MalformedUnterminatedCommand` in the same way
(30_encoding.md R101; 44_svf.md R272, R273). The keyword reported is the text of the first token, which is empty where
that is an unclosed parenthesis: the model's choice (log entry 13). -/
def Obligations.UnterminatedCommandEndsStream : Prop :=
  ∀ s : State, s.inStream → s.cancel = false → (s.text.drop s.pc).all isSpace = false →
    semicolon ∉ s.text.drop s.pc →
    ∃ t, step s = .next t ∧
      t.outcome = some (.error (.svf .unterminatedCommand s.pc (firstTokenText (s.text.drop s.pc)))) ∧
      t.running = false ∧ t.tap = .testLogicReset ∧
      t.tms = true ∧ t.tdi = s.tdi ∧
      traceGrows s t ∧ newTms s t = [true, true, true, true, true] ∧
      transportOnly { s with running := false, outcome := t.outcome, cancel := t.cancel } t

/-- `svf_run` starts the stream: the context and the pointer take their start values, the comments are stripped,
and no pulse is issued (44_svf.md R271). That the call ends here, the stream running and nothing returned yet, is the
model's choice (log entries 1 and 22). -/
def Obligations.SvfRunStartsTheStream : Prop :=
  ∀ (text : List Byte) (s : State), s.ready →
    ∃ t, exec (.svfRun text) s = .next t ∧ t.text = stripComments text ∧ (s.call = none → t.inStream) ∧
      t = { s with
        endir := .runTestIdle, enddr := .runTestIdle, hir := [], hdr := [], tir := [], tdr := [], pc := 0
        text := t.text, running := true, outcome := none }

/-! ## The TAP -/

/-- For every pair of states the path table holds the one route with the fewest pulses: each state of the path is
entered from the one before, the last is its end, no state is visited twice, and every other TMS string that leads
there is longer (41_tap.md R193, R194). -/
def Obligations.RoutesAreShortestAndUnique : Prop :=
  ∀ a d : TapState, walk a (route a d) = d ∧ (path a d).getLastD a = d ∧
    (∀ k x y, (a :: path a d)[k]? = some x → (a :: path a d)[k + 1]? = some y → y = next x false ∨ y = next x true) ∧
    (a :: path a d).Nodup ∧
    ∀ ts : List Bit, walk a ts = d → ts = route a d ∨ (route a d).length < ts.length

/-- `next_state`, `path_of` and `paths_ok` answer from the tables, issue no pulse, and fault on `Invalid` (41_tap.md
R190, R197, R198, R204). -/
def Obligations.TableOperationsAnswer : Prop :=
  ∀ (s : State) (a d : TapState) (v : Bit) (x : StateOperand), s.ready →
    exec (.nextState (.state a) v) s = .next { s with outcome := some (.ok (.state (next a v))) } ∧
    exec (.nextState .invalid v) s = .next { s with fault := some .invalidState, outcome := none } ∧
    exec (.pathOf (.state a) (.state d)) s = .next { s with outcome := some (.ok (.states (path a d))) } ∧
    exec (.pathOf .invalid x) s = .next { s with fault := some .invalidState, outcome := none } ∧
    exec (.pathOf x .invalid) s = .next { s with fault := some .invalidState, outcome := none } ∧
    exec .pathsOk s = .next { s with outcome := some (.ok (.bool true)) }

/-- `goto_next_state`: one pulse at the level that leads to the target, TDI not driven; a target that is no
successor, or `Invalid`, is a fault before any pulse (41_tap.md R199). -/
def Obligations.GotoNextStateMovesOneStep : Prop :=
  ∀ s : State, s.ready →
    (∀ v : Bit, ∃ t, exec (.gotoNextState (.state (next s.tap v))) s = .next t ∧ t.tap = next s.tap v ∧ t.tms = v ∧
      traceGrows s t ∧ newTms s t = [v] ∧ newTdi s t = [s.tdi] ∧ t.tdi = s.tdi ∧
      transportOnly { s with outcome := some (.ok .none) } t) ∧
    (∀ d : TapState, next s.tap false ≠ d → next s.tap true ≠ d → exec (.gotoNextState (.state d)) s =
      .next { s with fault := some (.illegalTransition s.tap d), outcome := none }) ∧
    exec (.gotoNextState .invalid) s = .next { s with fault := some .invalidState, outcome := none }

/-- `goto_state`: the pulses of the shortest route, none where the state is the present one, TDI not driven;
`Invalid` is a fault (41_tap.md R200; 42_scan.md R224). -/
def Obligations.GotoStateTakesTheRoute : Prop :=
  ∀ s : State, s.ready →
    (∀ d : TapState, ∃ t, exec (.gotoState (.state d)) s = .next t ∧ t.tap = d ∧ traceGrows s t ∧
      newTms s t = route s.tap d ∧ newTdi s t = List.replicate (route s.tap d).length s.tdi ∧
      t.tms = (route s.tap d).getLastD s.tms ∧ t.tdi = s.tdi ∧
      transportOnly { s with outcome := some (.ok .none) } t) ∧
    exec (.gotoState (.state s.tap)) s = .next { s with outcome := some (.ok .none) } ∧
    exec (.gotoState .invalid) s = .next { s with fault := some .invalidState, outcome := none }

/-- `go_thru_tap_sequence`: one pulse for each state of a legal sequence, TDI not driven; at the first element that is
`Invalid` or no successor it faults, the pulses before it having been issued (41_tap.md R201; 42_scan.md R224;
60_exceptions.md R335). -/
def Obligations.GoThruTakesEachState : Prop :=
  ∀ (s : State) (ts : List Bit), s.ready →
    (∃ t, exec (.goThruTapSequence ((statesFrom s.tap ts).map .state)) s = .next t ∧ t.tap = walk s.tap ts ∧
      traceGrows s t ∧ newTms s t = ts ∧ newTdi s t = List.replicate ts.length s.tdi ∧
      t.tms = ts.getLastD s.tms ∧ t.tdi = s.tdi ∧ transportOnly { s with outcome := some (.ok .none) } t) ∧
    ∀ (x : StateOperand) (rest : List StateOperand) (f : FaultCode),
      (x = .invalid ∧ f = .invalidState ∨
        ∃ d, x = .state d ∧ next (walk s.tap ts) false ≠ d ∧ next (walk s.tap ts) true ≠ d ∧
          f = .illegalTransition (walk s.tap ts) d) →
      ∃ t, exec (.goThruTapSequence ((statesFrom s.tap ts).map .state ++ x :: rest)) s = .next t ∧
        t.tap = walk s.tap ts ∧ traceGrows s t ∧ newTms s t = ts ∧
        newTdi s t = List.replicate ts.length s.tdi ∧ t.tms = ts.getLastD s.tms ∧ t.tdi = s.tdi ∧
        t.fault = some f ∧ transportOnly { s with fault := some f, outcome := none } t

/-- `update_state(n)` moves the tracker by `n` pulses at the present TMS level and issues none (41_tap.md R202). -/
def Obligations.UpdateStateMovesTheTracker : Prop :=
  ∀ (n : Nat) (s : State), s.ready →
    exec (.updateState n) s =
      .next { s with tap := walk s.tap (List.replicate n s.tms), outcome := some (.ok .none) }

/-- `init_tap`: TMS to 1, five pulses, TestLogicReset, whatever the tracker held, TDI not driven (41_tap.md R203). -/
def Obligations.InitTapReachesReset : Prop :=
  ∀ s : State, s.ready → ∃ t, exec .initTap s = .next t ∧ t.tap = .testLogicReset ∧ t.tms = true ∧ t.tdi = s.tdi ∧
    traceGrows s t ∧ newTms s t = [true, true, true, true, true] ∧ newTdi s t = List.replicate 5 s.tdi ∧
    transportOnly { s with outcome := some (.ok .none) } t

/-! ## The scan engine -/

/-- The single-bit primitives write and read the pin levels and issue no pulse (42_scan.md R232 to R238). -/
def Obligations.PinPrimitives : Prop :=
  ∀ (s : State) (v : Bit), s.ready →
    exec (.setTck v) s = .next { s with tck := v, accesses := .setTck v :: s.accesses, outcome := some (.ok .none) } ∧
    exec (.setTms v) s = .next { s with tms := v, accesses := .setTms v :: s.accesses, outcome := some (.ok .none) } ∧
    exec (.setTdi v) s = .next { s with tdi := v, accesses := .setTdi v :: s.accesses, outcome := some (.ok .none) } ∧
    exec .getTck s = .next { s with outcome := some (.ok (.bit s.tck)) } ∧
    exec .getTms s = .next { s with outcome := some (.ok (.bit s.tms)) } ∧
    exec .getTdi s = .next { s with outcome := some (.ok (.bit s.tdi)) } ∧
    ∃ x : Bit, exec .getTdo s =
      .next { s with accesses := .readTdo :: s.accesses, outcome := some (.ok (.bit x)) }

/-- `pulse_tck(n)`: `n` events at the levels held; neither a pin nor the tracker moves (42_scan.md R223). -/
def Obligations.PulseTckAddsPulses : Prop :=
  ∀ (n : Nat) (s : State), s.ready → ∃ t, exec (.pulseTck n) s = .next t ∧ traceGrows s t ∧
    newTms s t = List.replicate n s.tms ∧ newTdi s t = List.replicate n s.tdi ∧
    t = { s with trace := t.trace, accesses := t.accesses, outcome := some (.ok .none) }

/-- `send_recv_bitstream` in ShiftDR or ShiftIR: the longer of the two lengths in pulses, `send` then 0s on TDI, TMS
raised on the last bit where the scan exits, the first TDO bits in `recv`, whose length stays; in any other state a
fault before any pulse (42_scan.md R225, R226, R231). -/
def Obligations.SendRecvShifts : Prop :=
  ∀ (send recv : Bitstream) (x : Bit) (s : State), s.ready →
    (s.tap ∈ [TapState.shiftDR, .shiftIR] → ∃ t, exec (.sendRecvBitstream send recv x) s = .next t ∧
      traceGrows s t ∧ newTms s t = scanTms (max send.length recv.length) x ∧
      newTdi s t = (List.range (max send.length recv.length)).map (fun i => send.getD i false) ∧
      t.holder = (newTdo s t).take recv.length ∧ t.holder.length = recv.length ∧
      t.tap = (if x && max send.length recv.length != 0 then next s.tap true else s.tap) ∧
      t.tms = (if max send.length recv.length = 0 then s.tms else x) ∧
      t.tdi = (if max send.length recv.length = 0 then s.tdi
        else send.getD (max send.length recv.length - 1) false) ∧
      transportOnly { s with outcome := some (.ok .none), holder := t.holder } t) ∧
    (s.tap ∉ [TapState.shiftDR, .shiftIR] → exec (.sendRecvBitstream send recv x) s =
      .next { s with fault := some (.wrongTapState s.tap), outcome := none, holder := recv })

/-- `load_ir_then_dr` from its four start states: the pulses of both phases, the instruction on TDI in the first,
`send` then 0s in the second, TDI held on the routes between, the TDO bits of the second in `recv`, and RunTestIdle at
the end with TMS and TDI at their last levels; from any other state a fault before any pulse (42_scan.md R224, R239). -/
def Obligations.LoadIrThenDrRunsBothPhases : Prop :=
  ∀ (ir send recv : Bitstream) (s : State), s.ready →
    (s.tap ∈ [TapState.runTestIdle, .testLogicReset, .pauseDR, .pauseIR] →
      ∃ t, exec (.loadIrThenDr ir send recv) s = .next t ∧ t.tap = .runTestIdle ∧ traceGrows s t ∧
        (let n := max send.length recv.length
         let at_ := (irTms s.tap ir.length).length + (route (afterIr s.tap ir.length) .shiftDR).length
         newTms s t = loadTms s.tap ir.length n ∧ newTdi s t = loadTdi s.tdi s.tap ir (scanTdi send n) ∧
         t.holder = ((newTdo s t).drop at_).take recv.length) ∧ t.holder.length = recv.length ∧
        pinsHold s t ∧ transportOnly { s with outcome := some (.ok .none), holder := t.holder } t) ∧
    (s.tap ∉ [TapState.runTestIdle, .testLogicReset, .pauseDR, .pauseIR] →
      exec (.loadIrThenDr ir send recv) s =
        .next { s with fault := some (.badStartState s.tap), outcome := none, holder := recv })

/-- The pulses `load_ir_then_dr` issues from its start states: the first route, the bits and the routes after them;
from RunTestIdle I + L + 10, I + 6, L + 5 or none, and from TestLogicReset one more (42_scan.md R240). -/
def Obligations.LoadIrThenDrPulseCount : Prop :=
  ∀ (ir send recv : Bitstream) (s : State), s.ready →
    s.tap ∈ [TapState.runTestIdle, .testLogicReset, .pauseDR, .pauseIR] →
    ∃ t, exec (.loadIrThenDr ir send recv) s = .next t ∧ traceGrows s t ∧
      (let i := ir.length
       let l := max send.length recv.length
       let count := (newPulses s t).length
       (0 < i → 0 < l → count = (route s.tap .shiftIR).length + i + l + 6) ∧
       (0 < i → l = 0 → count = (route s.tap .shiftIR).length + i + 2) ∧
       (i = 0 → 0 < l → count = (route s.tap .shiftDR).length + l + 2) ∧
       (i = 0 → l = 0 → count = (route s.tap .runTestIdle).length) ∧
       ∀ more : Nat, (s.tap = .runTestIdle ∧ more = 0 ∨ s.tap = .testLogicReset ∧ more = 1) →
         (0 < i → 0 < l → count = i + l + 10 + more) ∧ (0 < i → l = 0 → count = i + 6 + more) ∧
         (i = 0 → 0 < l → count = l + 5 + more) ∧ (i = 0 → l = 0 → count = more))

/-! ## The device chain -/

/-- `get_number_of_devices`: the pulses of the count, the ones and the bits it sends, TDI held on the routes between,
and the count of the first 0 in the window of the captured bits, -1 and the error where there is none; the TAP ends in
RunTestIdle, TMS and TDI at 0 (43_chain.md R251; 42_scan.md R224). -/
def Obligations.DeviceCountIsFirstZero : Prop :=
  ∀ s : State, s.ready → ∃ t, exec .getNumberOfDevices s = .next t ∧ t.tap = .runTestIdle ∧ traceGrows s t ∧
    (let n := Config.actual.maxChainDevices
     let m := Config.actual.maxIrBits
     newTms s t = List.replicate 5 true ++ loadTms .testLogicReset m (2 * n + 1) ∧
     newTdi s t = List.replicate 5 s.tdi ++ loadTdi s.tdi .testLogicReset (List.replicate m true)
       (List.replicate n true ++ List.replicate (n + 1) false) ∧
     (newPulses s t).length = m + 2 * n + 17 ∧
     (∀ d, d ≤ n → (newTdo s t)[m + 14 + n + d]? = some false →
       (∀ j, j < d → (newTdo s t)[m + 14 + n + j]? = some true) →
       t.numdev = Int.ofNat d ∧ t.outcome = some (.ok (.nat d))) ∧
     ((∀ j, j ≤ n → (newTdo s t)[m + 14 + n + j]? = some true) →
       t.numdev = -1 ∧ t.outcome = some (.error (.noChainTerminator (n + 1))))) ∧
    t.tms = false ∧ t.tdi = false ∧ transportOnly { s with numdev := t.numdev, outcome := t.outcome } t

/-- `get_idcodes`: the count first; its error, or no device, leaves no IDCODE; otherwise 32 captured bits for each
device, the first captured first, TDI held on the routes and then 1, and the TAP ends in RunTestIdle, TMS at 0 and TDI
at 1 (43_chain.md R253; 42_scan.md R224). -/
def Obligations.IdcodesAreTheCapturedBits : Prop :=
  ∀ s : State, s.ready → ∃ u t, exec .getNumberOfDevices s = .next u ∧ exec .getIdcodes s = .next t ∧
    (u.numdev = -1 → t = { u with idcodes := [] }) ∧
    (u.numdev = 0 → t = { u with idcodes := [], outcome := some (.ok (.bitstreams [])) }) ∧
    ∀ d, 0 < d → u.numdev = Int.ofNat d →
      t.tap = .runTestIdle ∧ traceGrows u t ∧
      newTms u t = List.replicate 5 true ++ loadTms .testLogicReset 0 (32 * d) ∧
      newTdi u t = List.replicate 5 u.tdi ++ loadTdi u.tdi .testLogicReset [] (List.replicate (32 * d) true) ∧
      (newPulses u t).length = 32 * d + 11 ∧ t.tms = false ∧ t.tdi = true ∧
      t.idcodes.length = d ∧ t.outcome = some (.ok (.bitstreams t.idcodes)) ∧
      (∀ k, k < d → t.idcodes[k]? = some (((newTdo u t).drop (9 + 32 * k)).take 32)) ∧
      transportOnly { u with idcodes := t.idcodes, outcome := t.outcome } t

/-! ## SVF commands -/

/-- `TRST`, `PIO`, `PIOMAP` and `FREQUENCY` have no effect (44_svf.md R274 to R277). -/
def Obligations.IgnoredCommandsDoNothing : Prop :=
  ∀ (ts : List Token) (s : State), s.fault = none →
    exec (.trst ts) s = .next s ∧ exec (.pio ts) s = .next s ∧ exec (.piomap ts) s = .next s ∧
    exec (.frequency ts) s = .next s

/-- `ENDIR` and `ENDDR` write their end state and nothing else (44_svf.md R278, R279). -/
def Obligations.EndStatesAreWritten : Prop :=
  ∀ (d : TapState) (s : State), s.fault = none →
    exec (.endir d) s = .next { s with endir := d } ∧ exec (.enddr d) s = .next { s with enddr := d }

/-- `STATE` takes the shortest route to each named state in turn, TDI not driven (44_svf.md R280; 42_scan.md R224). -/
def Obligations.StateVisitsEachState : Prop :=
  ∀ (d : TapState) (ds : List TapState) (s : State), s.fault = none →
    ∃ t, exec (.state d ds) s = .next t ∧ t.tap = (d :: ds).getLastD d ∧ traceGrows s t ∧
      newTms s t = routesTms s.tap (d :: ds) ∧
      newTdi s t = List.replicate (routesTms s.tap (d :: ds)).length s.tdi ∧ t.tdi = s.tdi ∧ transportOnly s t

/-- The header and trailer commands: without TDI the register is resized, with TDI it is loaded with the low `n`
bits of the hex field, and nothing else changes (44_svf.md R281 to R284). -/
def Obligations.HeadersAndTrailersAreLoaded : Prop :=
  ∀ (n : Nat) (h : Option (List Nibble)) (o : OptFields) (s : State), s.fault = none →
    let holds (old b : Bitstream) : Prop := b.length = n ∧ ∀ i, i < n → b[i]? = some (match h with
      | none => old.getD i false
      | some ds => (hexValue ds).testBit i)
    (∃ b, exec (.hir n h o) s = .next { s with hir := b } ∧ holds s.hir b) ∧
    (∃ b, exec (.hdr n h o) s = .next { s with hdr := b } ∧ holds s.hdr b) ∧
    (∃ b, exec (.tir n h o) s = .next { s with tir := b } ∧ holds s.tir b) ∧
    (∃ b, exec (.tdr n h o) s = .next { s with tdr := b } ∧ holds s.tdr b)

/-- `SIR`: the route to ShiftIR, the trailer, the field and the header on TDI in that order, and the route to the
end state, TDI held on both routes, TMS and TDI left at their last levels (44_svf.md R285; 20_memory.md R63; 42_scan.md
R224). -/
def Obligations.SirShiftsThePayload : Prop :=
  ∀ (n : Nat) (h : List Nibble) (o : OptFields) (s : State), s.fault = none →
    ∃ t, exec (.sir n h o) s = .next t ∧ t.tap = s.endir ∧ traceGrows s t ∧
      (let bits := s.tir ++ (List.range n).map (fun i => (hexValue h).testBit i) ++ s.hir
       newTms s t = scanRegisterTms s.tap .shiftIR .exit1IR s.endir bits.length ∧
       newTdi s t = scanRegisterTdi s.tdi s.tap .shiftIR .exit1IR s.endir bits) ∧
      pinsHold s t ∧ transportOnly s t

/-- `SDR`: the same with the data registers (44_svf.md R286; 20_memory.md R63; 42_scan.md R224). -/
def Obligations.SdrShiftsThePayload : Prop :=
  ∀ (n : Nat) (h : List Nibble) (o : OptFields) (s : State), s.fault = none →
    ∃ t, exec (.sdr n h o) s = .next t ∧ t.tap = s.enddr ∧ traceGrows s t ∧
      (let bits := s.tdr ++ (List.range n).map (fun i => (hexValue h).testBit i) ++ s.hdr
       newTms s t = scanRegisterTms s.tap .shiftDR .exit1DR s.enddr bits.length ∧
       newTdi s t = scanRegisterTdi s.tdi s.tap .shiftDR .exit1DR s.enddr bits) ∧
      pinsHold s t ∧ transportOnly s t

/-- `RUNTEST n TCK`: `n` pulses at TMS 1 in TestLogicReset and 0 elsewhere, which the tracker follows; a stable state
is held (44_svf.md R287; 41_tap.md R196). -/
def Obligations.RuntestPulses : Prop :=
  ∀ (n : Nat) (s : State), s.fault = none →
    ∃ t, exec (.runtest n) s = .next t ∧ traceGrows s t ∧
      newTms s t = List.replicate n (s.tap == .testLogicReset) ∧ newTdi s t = List.replicate n s.tdi ∧
      t.tap = walk s.tap (List.replicate n (s.tap == .testLogicReset)) ∧ (stable s.tap = true → t.tap = s.tap) ∧
      t.tms = (s.tap == .testLogicReset) ∧ t.tdi = s.tdi ∧ transportOnly s t

/-! ## Bitstreams -/

/-- `new(n)` is `n` zeros and `length(b)` the length (40_bitstream.md R132, R133, R154). -/
def Obligations.NewAndLength : Prop :=
  ∀ (n : Nat) (b : Bitstream) (s : State), s.ready →
    (∃ z : Bitstream, exec (.new n) s = .next { s with outcome := some (.ok (.bits z)) } ∧ z.length = n ∧
      ∀ i, i < n → z[i]? = some false) ∧
    exec (.length b) s = .next { s with outcome := some (.ok (.nat b.length)) }

/-- `resize(b, m)` keeps the low bits and fills with zeros (40_bitstream.md R134). -/
def Obligations.ResizeKeepsLowBits : Prop :=
  ∀ (b : Bitstream) (m : Nat) (s : State), s.ready →
    ∃ r : Bitstream, exec (.resize b m) s = .next { s with holder := r, outcome := some (.ok .none) } ∧
      r.length = m ∧ ∀ i, i < m → r[i]? = some (b.getD i false)

/-- `get(b, i)` reads a bit below the length and faults at any other index (40_bitstream.md R135). -/
def Obligations.GetReadsOrFaults : Prop :=
  ∀ (b : Bitstream) (i : Nat) (s : State), s.ready →
    (i < b.length → ∃ v, b[i]? = some v ∧ exec (.get b i) s = .next { s with outcome := some (.ok (.bit v)) }) ∧
    (b.length ≤ i →
      exec (.get b i) s = .next { s with fault := some (.indexOutOfRange i b.length), outcome := none })

/-- `set_bit` and `set_bits` write at their indices; at the first index that is not below the length they fault, the
bits before it having been written; an empty sequence never faults (40_bitstream.md R136, R137; 60_exceptions.md
R335). -/
def Obligations.SetBitsWriteUpToTheFault : Prop :=
  ∀ (b : Bitstream) (i : Nat) (v : Bit) (seq : List Bit) (s : State), s.ready →
    (i < b.length → ∃ r : Bitstream,
      exec (.setBit b i v) s = .next { s with holder := r, outcome := some (.ok .none) } ∧ r.length = b.length ∧
      ∀ j, j < b.length → r[j]? = if j = i then some v else b[j]?) ∧
    (b.length ≤ i → exec (.setBit b i v) s =
      .next { s with holder := b, fault := some (.indexOutOfRange i b.length), outcome := none }) ∧
    ∃ r : Bitstream, r.length = b.length ∧
      (∀ j, j < b.length → r[j]? = if i ≤ j ∧ j < i + seq.length then seq[j - i]? else b[j]?) ∧
      (seq = [] ∨ i + seq.length ≤ b.length →
        exec (.setBits b i seq) s = .next { s with holder := r, outcome := some (.ok .none) }) ∧
      (seq ≠ [] → b.length < i + seq.length →
        exec (.setBits b i seq) s = .next { s with
          holder := r, fault := some (.indexOutOfRange (max i b.length) b.length), outcome := none })

/-- `xor(a, b)` of equal lengths, bit by bit, and its involution; unequal lengths are a fault (40_bitstream.md R138,
R157). -/
def Obligations.XorOfEqualLengths : Prop :=
  ∀ (a b : Bitstream) (s : State), s.ready →
    (a.length = b.length →
      ∃ r : Bitstream, exec (.xor a b) s = .next { s with outcome := some (.ok (.bits r)) } ∧ r.length = a.length ∧
        (∀ i, i < a.length → r[i]? = some (a.getD i false ^^ b.getD i false)) ∧
        exec (.xor r b) s = .next { s with outcome := some (.ok (.bits a)) }) ∧
    (a.length ≠ b.length → exec (.xor a b) s =
      .next { s with fault := some (.lengthMismatch a.length b.length), outcome := none })

/-- `concat(a, b)`: the low bits are `b`, the high bits `a`, for any two lengths (40_bitstream.md R139, R158). -/
def Obligations.ConcatPutsFirstHigh : Prop :=
  ∀ (a b : Bitstream) (s : State), s.ready →
    ∃ c : Bitstream, exec (.concat a b) s = .next { s with outcome := some (.ok (.bits c)) } ∧
      c.length = a.length + b.length ∧ c.take b.length = b ∧ c.drop b.length = a ∧
      val c = val a * 2 ^ b.length + val b

/-- `shift_right(b, k)` drops the low bits, fills with zeros and keeps the length (40_bitstream.md R140). -/
def Obligations.ShiftRightFillsZeros : Prop :=
  ∀ (b : Bitstream) (k : Nat) (s : State), s.ready →
    ∃ r : Bitstream, exec (.shiftRight b k) s = .next { s with holder := r, outcome := some (.ok .none) } ∧
      r.length = b.length ∧ ∀ i, i < b.length → r[i]? = some (b.getD (i + k) false)

/-- `reverse(b)` reverses the bits, twice gives `b` back; `equal(a, b)` compares length and bits (40_bitstream.md
R141, R142, R156). -/
def Obligations.ReverseAndEqual : Prop :=
  ∀ (a b : Bitstream) (s : State), s.ready →
    (∃ r : Bitstream, exec (.reverse b) s = .next { s with holder := r, outcome := some (.ok .none) } ∧
      r.length = b.length ∧ (∀ i, i < b.length → r[i]? = b[b.length - 1 - i]?) ∧
      exec (.reverse r) s = .next { s with holder := b, outcome := some (.ok .none) }) ∧
    ∃ x : Bool, exec (.equal a b) s = .next { s with outcome := some (.ok (.bool x)) } ∧
      (x = true ↔ a.length = b.length ∧ ∀ i, i < a.length → a[i]? = b[i]?)

/-- `to_hex_string`, `to_char_string`, `to_word_string` and `to_string` return one unit for each 4, 8, 16 bits or
one, and the inverse operation of the same length gives the Bitstream back, whatever the padding bits (40_bitstream.md
R144, R146, R148, R152, R155). -/
def Obligations.SerialisationsRoundTrip : Prop :=
  ∀ (b : Bitstream) (s u : State), s.ready → u.ready →
    (∃ r, exec (.toHexString b) s = .next { s with
        accesses := .padding :: s.accesses, outcome := some (.ok (.text r)) } ∧
      r.length = (b.length + 3) / 4 ∧
      (∀ c ∈ r, 0x30 ≤ c.toNat ∧ c.toNat ≤ 0x39 ∨ 0x41 ≤ c.toNat ∧ c.toNat ≤ 0x46) ∧
      exec (.fromHexString b.length r) u = .next { u with outcome := some (.ok (.bits b)) }) ∧
    (∃ r, exec (.toCharString b) s = .next { s with
        accesses := .padding :: s.accesses, outcome := some (.ok (.bytes r)) } ∧
      r.length = (b.length + 7) / 8 ∧
      exec (.fromCharString b.length r) u = .next { u with outcome := some (.ok (.bits b)) }) ∧
    (∃ r, exec (.toWordString b) s = .next { s with
        accesses := .padding :: s.accesses, outcome := some (.ok (.words r)) } ∧
      r.length = (b.length + 15) / 16 ∧
      exec (.fromWordString b.length r) u = .next { u with outcome := some (.ok (.bits b)) }) ∧
    ∃ r, exec (.toString b) s = .next { s with outcome := some (.ok (.text r)) } ∧ r.length = b.length ∧
      exec (.fromString r) u = .next { u with outcome := some (.ok (.bits b)) }

/-- `from_hex_string(n, s)`: the digits are read as one number, the last lowest, other characters skipped, and its
low `n` bits are the result (40_bitstream.md R145; 20_memory.md R68). -/
def Obligations.HexTextIsRightAligned : Prop :=
  ∀ (n : Nat) (text : List Byte) (c : Byte) (s : State), s.ready →
    (∃ b : Bitstream, exec (.fromHexString n text) s = .next { s with outcome := some (.ok (.bits b)) } ∧
      b.length = n ∧ val b = hexValue (hexDigits text) % 2 ^ n) ∧
    hexValue (hexDigits (text ++ [c])) = (match hexDigit? c with
      | some d => 16 * hexValue (hexDigits text) + d.toNat
      | none => hexValue (hexDigits text)) ∧
    hexValue (hexDigits []) = 0

/-- `from_char_string` and `from_word_string`: bit i is bit `i mod 8` of byte `i div 8`, bit `i mod 16` of word
`i div 16`; too short an input is a fault (40_bitstream.md R147, R149). -/
def Obligations.PackedInputIsLsbFirst : Prop :=
  ∀ (n : Nat) (bytes : List Byte) (words : List Word) (s : State), s.ready →
    ((n + 7) / 8 ≤ bytes.length →
      ∃ b : Bitstream, exec (.fromCharString n bytes) s = .next { s with outcome := some (.ok (.bits b)) } ∧
        b.length = n ∧ ∀ i, i < n → b[i]? = some ((bytes.getD (i / 8) 0).toNat.testBit (i % 8))) ∧
    (bytes.length < (n + 7) / 8 → exec (.fromCharString n bytes) s =
      .next { s with fault := some (.shortInput bytes.length ((n + 7) / 8)), outcome := none }) ∧
    ((n + 15) / 16 ≤ words.length →
      ∃ b : Bitstream, exec (.fromWordString n words) s = .next { s with outcome := some (.ok (.bits b)) } ∧
        b.length = n ∧ ∀ i, i < n → b[i]? = some ((words.getD (i / 16) 0).toNat.testBit (i % 16))) ∧
    (words.length < (n + 15) / 16 → exec (.fromWordString n words) s =
      .next { s with fault := some (.shortInput words.length ((n + 15) / 16)), outcome := none })

/-- `from_hex_stream` takes the bytes up to the last hex digit it needs, `from_char_stream` the bytes it needs; the
result is reversed where asked; an input that ends early is the error `MalformedTruncatedStream` (40_bitstream.md
R150, R151). -/
def Obligations.StreamsConsumeWhatTheyNeed : Prop :=
  ∀ (n : Nat) (reader : List Byte) (v : Bit) (s : State), s.ready →
    ((n + 3) / 4 ≤ (hexDigits reader).length → ∃ (used rest : List Byte) (b : Bitstream),
      reader = used ++ rest ∧ (hexDigits used).length = (n + 3) / 4 ∧
      (∀ x ∈ used.getLast?, (hexDigit? x).isSome = true) ∧ b.length = n ∧
      val b = hexValue (hexDigits used) % 2 ^ n ∧
      exec (.fromHexStream n reader v) s = .next { s with
        reader := rest, outcome := some (.ok (.bits (if v then b.reverse else b))) }) ∧
    ((hexDigits reader).length < (n + 3) / 4 → exec (.fromHexStream n reader v) s = .next { s with
      reader := [], outcome := some (.error (.truncatedStream n (hexDigits reader).length)) }) ∧
    ((n + 7) / 8 ≤ reader.length → ∃ b : Bitstream, b.length = n ∧
      (∀ i, i < n → b[i]? = some ((reader.getD (i / 8) 0).toNat.testBit (i % 8))) ∧
      exec (.fromCharStream n reader v) s = .next { s with
        reader := reader.drop ((n + 7) / 8)
        outcome := some (.ok (.bits (if v then b.reverse else b))) }) ∧
    (reader.length < (n + 7) / 8 → exec (.fromCharStream n reader v) s = .next { s with
      reader := [], outcome := some (.error (.truncatedStream n reader.length)) })

/-- `to_string` writes the highest index first; `from_string` reads it so and faults at the first character that is
neither `0` nor `1` (40_bitstream.md R152, R153). -/
def Obligations.BinaryTextIsMsbFirst : Prop :=
  ∀ (b : Bitstream) (good rest : List Byte) (x : Byte) (s : State), s.ready →
    (∃ r : List Byte, exec (.toString b) s = .next { s with outcome := some (.ok (.text r)) } ∧ r.length = b.length ∧
      ∀ j, j < b.length → r[j]? = some (if b.getD (b.length - 1 - j) false then 0x31#8 else 0x30#8)) ∧
    (good.all (fun c => c == 0x30#8 || c == 0x31#8) = true →
      (∃ r : Bitstream, exec (.fromString good) s = .next { s with outcome := some (.ok (.bits r)) } ∧
        r.length = good.length ∧
        ∀ j, j < good.length → r[good.length - 1 - j]? = some (good.getD j 0 == 0x31#8)) ∧
      (x ≠ 0x30#8 → x ≠ 0x31#8 → exec (.fromString (good ++ x :: rest)) s =
        .next { s with fault := some (.badStringChar good.length x), outcome := none }))

/-! ## The transition table -/

/-- `next_state` answers by the 32 entries of the spec's transition table, here written out: a state, its successor at
TMS 0 and its successor at TMS 1 (41_tap.md R191, R197). The spec gives the entries from general knowledge (log entry
21). -/
def Obligations.TransitionTableIsTheSpecs : Prop :=
  ∀ s : State, s.ready → ∀ row ∈ [
      (TapState.testLogicReset, TapState.runTestIdle, TapState.testLogicReset),
      (.runTestIdle, .runTestIdle, .selectDRScan),
      (.selectDRScan, .captureDR, .selectIRScan),
      (.selectIRScan, .captureIR, .testLogicReset),
      (.captureDR, .shiftDR, .exit1DR),
      (.captureIR, .shiftIR, .exit1IR),
      (.shiftDR, .shiftDR, .exit1DR),
      (.shiftIR, .shiftIR, .exit1IR),
      (.exit1DR, .pauseDR, .updateDR),
      (.exit1IR, .pauseIR, .updateIR),
      (.pauseDR, .pauseDR, .exit2DR),
      (.pauseIR, .pauseIR, .exit2IR),
      (.exit2DR, .shiftDR, .updateDR),
      (.exit2IR, .shiftIR, .updateIR),
      (.updateDR, .runTestIdle, .selectDRScan),
      (.updateIR, .runTestIdle, .selectDRScan)],
    exec (.nextState (.state row.1) false) s = .next { s with outcome := some (.ok (.state row.2.1)) } ∧
    exec (.nextState (.state row.1) true) s = .next { s with outcome := some (.ok (.state row.2.2)) }
end

