-- ==== Sys2Proof/Laws/Decode.lean ====
section
/-!
SUPPORT. Each operand kind read back from the token that writes it (30_encoding.md R102 to R108; log entry 2).
-/
namespace Sys2Proof
open Machine

-- The evaluations below are checked one after another, so that the whole package compiles in little memory.
set_option Elab.async false

theorem opName_ofToken_text (k : OpName) : OpName.ofToken? (.word k.text) = some k := by
  cases k <;> decide +kernel

theorem svfKeyword_ofToken_text (k : SvfKeyword) : SvfKeyword.ofToken? (.word k.text) = some k := by
  cases k <;> decide +kernel

theorem stateName_stateNameToken (s : TapState) : stateName? (stateNameToken s) = some s := by
  cases s <;> decide +kernel

theorem stateOperand_stateToken (s : StateOperand) : stateOperand? (stateToken s) = some s := by
  rcases s with s | _
  · cases s <;> decide +kernel
  · decide +kernel

theorem bit_bitToken (v : Bit) : bit? (bitToken v) = some v := by cases v <;> rfl

theorem hexDigit_hexDigitByte (d : Nibble) : hexDigit? (hexDigitByte d) = some d := by
  revert d; decide +kernel

theorem hexDigits_map (ds : List Nibble) : hexDigits (ds.map hexDigitByte) = ds := by
  induction ds with
  | nil => rfl
  | cons d ds ih =>
    rw [List.map_cons, hexDigits, List.filterMap_cons_some (hexDigit_hexDigitByte d)]
    exact congrArg _ ih

theorem decimalDigit_ofDigit (d : Nat) (h : d < 10) : decimalDigit? (BitVec.ofNat 8 (d + 0x30)) = some d := by
  interval_cases d <;> decide

/-- Reading the digits that `decimalAux` puts before `acc` goes on from the number itself. -/
theorem decimalFrom_decimalAux (fuel n : Nat) (acc : List Byte) (h : n < fuel) :
    ∃ k, ∀ v, decimalFrom v (decimalAux fuel n acc) = decimalFrom (v * 10 ^ (k + 1) + n) acc ∧
      decimalAux fuel n acc ≠ [] := by
  induction fuel generalizing n acc with
  | zero => omega
  | succ fuel ih =>
    have hd := decimalDigit_ofDigit (n % 10) (Nat.mod_lt _ (by decide))
    by_cases hn : n < 10
    · refine ⟨0, fun v => ⟨?_, ?_⟩⟩
      · rw [decimalAux, if_pos hn, decimalFrom, hd, Option.bind_some]
        congr 1
        omega
      · rw [decimalAux, if_pos hn]
        exact List.cons_ne_nil _ _
    · obtain ⟨k, hk⟩ := ih (n / 10) (BitVec.ofNat 8 (n % 10 + 0x30) :: acc) (by omega)
      refine ⟨k + 1, fun v => ⟨?_, ?_⟩⟩
      · rw [decimalAux, if_neg hn, (hk v).1, decimalFrom, hd, Option.bind_some]
        congr 1
        rw [pow_succ 10 (k + 1)]
        have := Nat.div_add_mod n 10
        ring_nf
        omega
      · rw [decimalAux, if_neg hn]
        exact (hk v).2

theorem nat_natToken (n : Nat) : nat? (natToken n) = some n := by
  obtain ⟨k, hk⟩ := decimalFrom_decimalAux (n + 1) n [] (Nat.lt_succ_self n)
  obtain ⟨h, hne⟩ := hk 0
  unfold natToken decimal
  cases e : decimalAux (n + 1) n [] with
  | nil => exact absurd e hne
  | cons b rest =>
    rw [e] at h
    rw [nat?, h, decimalFrom, Nat.zero_mul, Nat.zero_add]

theorem svfNumber_natToken (n : Nat) (h : n ≤ numericFieldMax) : svfNumber? (natToken n) = some n := by
  rw [svfNumber?, nat_natToken, Option.bind_some, if_pos h]

theorem word_natToken (w : Word) : word? (natToken w.toNat) = some w := by
  rw [word?, nat_natToken, Option.bind_some, if_pos w.isLt, BitVec.ofNat_toNat, BitVec.setWidth_eq]

theorem bitChar_read (v : Bit) : bitChar? (bitChar v) = some v := by cases v <;> rfl

theorem bitChars_map (vs : List Bit) : bitChars? (vs.map bitChar) = some vs := by
  induction vs with
  | nil => rfl
  | cons v vs ih => rw [List.map_cons, bitChars?, bitChar_read, ih]; rfl

theorem bitstream_bitstreamToken (b : Bitstream) : bitstream? (bitstreamToken b) = some b := by
  rw [bitstreamToken, bitstream?, if_pos (by simp), List.dropLast_concat, bitChars_map, Option.map_some,
    List.reverse_reverse]

theorem hexPair_read (b : Byte) (rest : List Byte) :
    hexPairs? (hexPair b ++ rest) = (hexPairs? rest).map fun bs => b :: bs := by
  have h : b.extractLsb' 4 4 ++ b.extractLsb' 0 4 = b := by revert b; decide +kernel
  rw [hexPair, List.cons_append, List.cons_append, List.nil_append, hexPairs?, hexDigit_hexDigitByte,
    Option.bind_some, hexDigit_hexDigitByte, Option.bind_some, h]

theorem bytes_bytesToken (bs : List Byte) : bytes? (bytesToken bs) = some bs := by
  rw [bytesToken, bytes?]
  induction bs with
  | nil => rfl
  | cons b bs ih => rw [List.flatMap_cons, hexPair_read, ih]; rfl

theorem each_map {α : Type} (kind : Token → Option α) (token : α → Token)
    (h : ∀ a, kind (token a) = some a) (as : List α) : each? kind (as.map token) = some as := by
  induction as with
  | nil => rfl
  | cons a as ih => rw [List.map_cons, each?, h, ih]; rfl

theorem fieldName_text (o : OptField) : fieldName? o.text = some (some o) := by cases o <;> decide +kernel

/-- Fields that are distinct among themselves and from those read before are all read. -/
theorem decodeFields_otherTokens (others : OptFields) (f : ScanFields)
    (hd : distinctFields others = true) (hf : ∀ p ∈ others, f.has (some p.1) = false) :
    decodeFields .ignore (otherTokens others) f = .ok { f with others := f.others ++ others } := by
  induction others generalizing f with
  | nil => simp [otherTokens, decodeFields]
  | cons p rest ih =>
    obtain ⟨hp, hrest⟩ : (rest.any fun q => q.1 == p.1) = false ∧ distinctFields rest = true := by
      simpa [distinctFields] using hd
    have step : decodeFields .ignore (otherTokens (p :: rest)) f =
        decodeFields .ignore (otherTokens rest) (f.add p.2 (some p.1)) := by
      rw [otherTokens, List.flatMap_cons, ← otherTokens]
      simp only [List.cons_append, List.nil_append, decodeFields, fieldName_text, hexToken, hexDigits_map]
      rw [hf p (List.mem_cons_self ..)]
      rfl
    rw [step, ih _ hrest]
    · simp [ScanFields.add]
    · intro q hq
      have h1 : f.others.any (fun r => r.1 == q.1) = false := hf q (List.mem_cons_of_mem _ hq)
      have h2 : (p.1 == q.1) = false := by
        have h3 := List.any_eq_false.1 hp q hq
        simp only [beq_iff_eq] at h3
        exact beq_false_of_ne fun e => h3 e.symm
      simp [ScanFields.has, ScanFields.add, List.any_append, h1, h2]

theorem decodeFields_fieldTokens (tdi : Option (List Nibble)) (others : OptFields)
    (hd : distinctFields others = true) :
    decodeFields .ignore (fieldTokens tdi others) ⟨none, []⟩ = .ok ⟨tdi, others⟩ := by
  cases tdi with
  | none =>
    rw [fieldTokens, List.nil_append, decodeFields_otherTokens others _ hd (by simp [ScanFields.has])]
    rfl
  | some h =>
    have hn : fieldName? (chars ['T', 'D', 'I']) = some none := by decide +kernel
    have step : decodeFields .ignore (fieldTokens (some h) others) ⟨none, []⟩ =
        decodeFields .ignore (otherTokens others) ⟨some h, []⟩ := by
      simp only [fieldTokens, tdiTokens, hexToken, List.cons_append, List.nil_append, decodeFields, hn, hexDigits_map]
      rfl
    rw [step, decodeFields_otherTokens others _ hd (by simp [ScanFields.has])]
    rfl

theorem decodeNumberAndFields_tokens (n : Nat) (tdi : Option (List Nibble)) (others : OptFields)
    (h : scanFieldsWellFormed n others = true) :
    decodeNumberAndFields .ignore (natToken n :: fieldTokens tdi others) = .ok (n, ⟨tdi, others⟩) := by
  obtain ⟨hn, hd⟩ : n ≤ numericFieldMax ∧ distinctFields others = true := by
    simpa [scanFieldsWellFormed] using h
  rw [decodeNumberAndFields, svfNumber_natToken n hn]
  simp only [decodeFields_fieldTokens tdi others hd]
  rfl

theorem decodeStates_tokens (ss : List TapState) : decodeStates (ss.map stateNameToken) = .ok ss := by
  induction ss with
  | nil => rfl
  | cons s ss ih => rw [List.map_cons, decodeStates, stateName_stateNameToken]; simp only [ih]; rfl

/-- A well-formed token is not an unclosed one. -/
theorem any_unclosed_of_wellFormed (ts : List Token) (h : ts.all Token.wellFormed = true) :
    ts.any Token.isUnclosed = false := by
  rw [List.any_eq_false]
  intro t ht
  have := List.all_eq_true.1 h t ht
  cases t <;> simp_all [Token.wellFormed, Token.isUnclosed]

/-- The name of a scan field is read back. -/
theorem fieldName_fieldText (f : Option OptField) : fieldName? (fieldText f) = some f := by
  cases f with
  | none => decide +kernel
  | some o => exact fieldName_text o

theorem scanFields_has_add (f : ScanFields) (n m : Option OptField) (d : List Nibble) :
    (f.add d m).has n = (f.has n || n == m) := by
  cases n <;> cases m <;> simp [ScanFields.has, ScanFields.add, Bool.or_comm, eq_comm]
  all_goals (rename_i a b; cases a <;> cases b <;> rfl)

/-- A scan-field list without an error is read to its end (30_encoding.md R108). -/
theorem decodeFields_fieldListTokens (optional : OptionalFields) (fs : List (Option OptField × List Byte))
    (rest : List Token) (f : ScanFields) (h : fieldListReadable optional fs) (hf : ∀ n ∈ fs.map Prod.fst, f.has n = false) :
    ∃ g : ScanFields, decodeFields optional (fieldListTokens fs ++ rest) f = decodeFields optional rest g ∧
      ∀ n, g.has n = true ↔ f.has n = true ∨ n ∈ fs.map Prod.fst := by
  induction fs generalizing f with
  | nil => exact ⟨f, rfl, by simp⟩
  | cons p fs ih =>
    obtain ⟨n, h'⟩ := p
    obtain ⟨hn, hr⟩ := h
    simp only [List.map_cons, List.nodup_cons] at hn
    obtain ⟨g, hg, hh⟩ := ih (f.add (hexDigits h') n)
      ⟨hn.2, fun e p hp => hr e p (List.mem_cons_of_mem _ hp)⟩ (by
      intro m hm
      rw [scanFields_has_add, hf m (by simp [hm])]
      have : m ≠ n := by rintro rfl; exact hn.1 hm
      simpa using this)
    refine ⟨g, ?_, ?_⟩
    · rw [← hg]
      show decodeFields optional (.word (fieldText n) :: .paren h' :: (fieldListTokens fs ++ rest)) f = _
      rw [decodeFields, fieldName_fieldText]
      have h1 := hf n (by simp)
      have h2 : (n.isSome && optional == .reject) = false := by
        cases optional with
        | ignore => cases n <;> rfl
        | reject => cases n with
          | none => rfl
          | some o => exact absurd (hr rfl (some o, h') (by simp)) (by simp)
      simp [h1, h2]
    · intro m
      rw [hh, scanFields_has_add]
      simp only [List.map_cons, List.mem_cons, Bool.or_eq_true, beq_iff_eq]
      tauto

end Sys2Proof
end

