-- ==== Sys2Proof/Laws/Bitstream.lean ====
section
/-!
SUPPORT. What each function of Bitstream values gives, bit by bit and as a number (40_bitstream.md; 20_memory.md
R61 to R71).
-/
namespace Sys2Proof.Machine

@[simp] theorem zeros_length (n : Nat) : (zeros n).length = n := List.length_replicate ..

@[simp] theorem ones_length (n : Nat) : (ones n).length = n := List.length_replicate ..

@[simp] theorem bs_length (n v : Nat) : (bs n v).length = n := by simp [bs]

theorem bs_getElem? (n v i : Nat) (h : i < n) : (bs n v)[i]? = some (v.testBit i) := by simp [bs, h]

theorem resizeBits_length (b : Bitstream) (m : Nat) : (resizeBits b m).length = m := by
  simp [resizeBits]; omega

theorem resizeBits_getElem? (b : Bitstream) (m i : Nat) (h : i < m) :
    (resizeBits b m)[i]? = some (b.getD i false) := by
  rw [resizeBits, zeros]
  by_cases hi : i < b.length
  · rw [List.getElem?_append_left (by simp; omega), List.getElem?_take_of_lt h, List.getD_eq_getElem?_getD,
      List.getElem?_eq_getElem hi, Option.getD_some]
  · have hd : b.getD i false = false := by simp [List.getD_eq_getElem?_getD,
      List.getElem?_eq_none (Nat.le_of_not_lt hi)]
    rw [List.getElem?_append_right (by simp; omega), List.getElem?_replicate_of_lt (by simp; omega), hd]

theorem shiftRightBits_length (b : Bitstream) (k : Nat) : (shiftRightBits b k).length = b.length := by
  simp [shiftRightBits]; omega

theorem shiftRightBits_getElem? (b : Bitstream) (k i : Nat) (h : i < b.length) :
    (shiftRightBits b k)[i]? = some (b.getD (i + k) false) := by
  rw [shiftRightBits, zeros]
  by_cases hi : i + k < b.length
  · rw [List.getElem?_append_left (by simp; omega), List.getElem?_drop, List.getD_eq_getElem?_getD,
      Nat.add_comm k i,
      List.getElem?_eq_getElem hi, Option.getD_some]
  · have hd : b.getD (i + k) false = false := by
      simp [List.getD_eq_getElem?_getD, List.getElem?_eq_none (Nat.le_of_not_lt hi)]
    rw [List.getElem?_append_right (by simp; omega), List.getElem?_replicate_of_lt (by simp; omega), hd]

/-! ## Numbers -/

theorem val_lt (b : Bitstream) : val b < 2 ^ b.length := by
  induction b with
  | nil => simp [val]
  | cons x b ih => cases x <;> simp [val, pow_succ] <;> omega

theorem val_testBit (b : Bitstream) (i : Nat) : (val b).testBit i = b.getD i false := by
  induction b generalizing i with
  | nil => simp [val]
  | cons x b ih =>
    cases i with
    | zero => cases x <;> simp [val, Nat.testBit_zero]
    | succ i =>
      rw [val, Nat.testBit_succ, List.getD_cons_succ, ← ih i]
      congr 1
      cases x with
      | false => simp
      | true => simp; omega

theorem val_append (a b : Bitstream) : val (b ++ a) = val a * 2 ^ b.length + val b := by
  induction b with
  | nil => simp [val]
  | cons x b ih => rw [List.cons_append, val, ih, val, List.length_cons, pow_succ]; ring

/-- A Bitstream is the bits of its value. -/
theorem bs_val (b : Bitstream) (v : Nat) (h : ∀ i, i < b.length → v.testBit i = b.getD i false) :
    bs b.length v = b := by
  apply List.ext_getElem? fun i => ?_
  by_cases hi : i < b.length
  · rw [bs_getElem? _ _ _ hi, h i hi, List.getD_eq_getElem?_getD, List.getElem?_eq_getElem hi, Option.getD_some]
  · rw [List.getElem?_eq_none (by simp; omega), List.getElem?_eq_none (by omega)]

theorem val_bs (n v : Nat) : val (bs n v) = v % 2 ^ n := by
  apply Nat.eq_of_testBit_eq fun i => ?_
  rw [val_testBit, Nat.testBit_mod_two_pow, List.getD_eq_getElem?_getD]
  by_cases h : i < n
  · rw [bs_getElem? _ _ _ h]; simp [h]
  · rw [List.getElem?_eq_none (by simp; omega)]; simp [h]

@[simp] theorem ofHexDigits_length (n : Nat) (ds : List Nibble) : (ofHexDigits n ds).length = n := bs_length ..

theorem ofHexDigits_getElem? (n : Nat) (ds : List Nibble) (i : Nat) (h : i < n) :
    (ofHexDigits n ds)[i]? = some ((hexValue ds).testBit i) := by
  rw [ofHexDigits, bs_getElem? _ _ _ h, Nat.testBit_mod_two_pow]; simp [h]

theorem ofHexDigits_eq (n : Nat) (ds : List Nibble) :
    ofHexDigits n ds = (List.range n).map fun i => (hexValue ds).testBit i := by
  apply List.ext_getElem? fun i => ?_
  by_cases h : i < n
  · rw [ofHexDigits_getElem? _ _ _ h]; simp [h]
  · rw [List.getElem?_eq_none (by simp; omega), List.getElem?_eq_none (by simp; omega)]

theorem val_ofHexDigits (n : Nat) (ds : List Nibble) : val (ofHexDigits n ds) = hexValue ds % 2 ^ n := by
  rw [ofHexDigits, val_bs, Nat.mod_mod]

theorem hexValue_concat (ds : List Nibble) (d : Nibble) : hexValue (ds ++ [d]) = 16 * hexValue ds + d.toNat := by
  simp [hexValue]

/-! ## Units -/

theorem le_ceilDiv_mul (n u : Nat) (h : 0 < u) : n ≤ ceilDiv n u * u := by
  rw [ceilDiv]
  have h1 := Nat.div_add_mod (n + u - 1) u
  have h2 := Nat.mod_lt (n + u - 1) h
  rw [Nat.mul_comm] at h1
  omega

theorem padded_length (p : Nat → Bit) (u : Nat) (b : Bitstream) (h : 0 < u) :
    (padded p u b).length = ceilDiv b.length u * u := by
  have := le_ceilDiv_mul b.length u h
  simp [padded]; omega

theorem padded_take (p : Nat → Bit) (u : Nat) (b : Bitstream) : (padded p u b).take b.length = b := by
  simp [padded]

/-- The bits of the units put together again are the padded bits. -/
theorem flatMap_units (p : Nat → Bit) (u : Nat) (b : Bitstream) (hu : 0 < u) :
    (units p u b).flatMap (bs u) = padded p u b := by
  have key : ∀ (k : Nat) (l : List Bit), l.length = k * u →
      ((List.range k).map fun j => val ((l.drop (u * j)).take u)).flatMap (bs u) = l := by
    intro k
    induction k with
    | zero => intro l h; simp at h; simp [h]
    | succ k ih =>
      intro l h
      rw [List.range_succ_eq_map, List.map_cons, List.flatMap_cons, List.map_map]
      have h1 : (l.take u).length = u := by
        rw [List.length_take, h, Nat.succ_mul]; omega
      have h2 : bs u (val ((l.drop (u * 0)).take u)) = l.take u := by
        rw [Nat.mul_zero, List.drop_zero]
        have := bs_val (l.take u) (val (l.take u)) fun i _ => val_testBit _ i
        rwa [h1] at this
      have h3 := ih (l.drop u) (by rw [List.length_drop, h, Nat.succ_mul]; omega)
      rw [h2]
      conv_rhs => rw [← List.take_append_drop u l]
      congr 1
      rw [← h3]
      congr 1
      apply List.map_congr_left fun j _ => ?_
      simp only [Function.comp, List.drop_drop, Nat.succ_eq_add_one, Nat.mul_add, Nat.mul_one, Nat.add_comm u]
  exact key _ _ (padded_length p u b hu)

theorem units_length (p : Nat → Bit) (u : Nat) (b : Bitstream) : (units p u b).length = ceilDiv b.length u := by
  simp [units]

theorem units_lt (p : Nat → Bit) (u : Nat) (b : Bitstream) (v : Nat) (h : v ∈ units p u b) : v < 2 ^ u := by
  obtain ⟨k, -, rfl⟩ := List.mem_map.1 h
  exact lt_of_lt_of_le (val_lt _) (Nat.pow_le_pow_right (by decide) (by simp))

/-! ## Binary text and writes -/

theorem writeBits_length (b : Bitstream) (i : Nat) (vs : List Bit) : (writeBits b i vs).1.length = b.length := by
  induction vs generalizing b i with
  | nil => rfl
  | cons v vs ih =>
    rw [writeBits]
    split
    · rw [ih, List.length_set]
    · rfl

/-- Where a write stops: nowhere when every index is below the length, else at the first that is not. -/
theorem writeBits_stop (b : Bitstream) (i : Nat) (vs : List Bit) :
    (writeBits b i vs).2 = if vs = [] ∨ i + vs.length ≤ b.length then none else some (max i b.length) := by
  induction vs generalizing b i with
  | nil => simp [writeBits]
  | cons v vs ih =>
    rw [writeBits]
    split
    case isTrue h =>
      rw [ih, List.length_set]
      by_cases hv : vs = []
      · subst hv; simp; omega
      · have hl : 0 < vs.length := List.length_pos_iff.2 hv
        simp only [hv, false_or, reduceCtorEq, List.length_cons]
        split_ifs <;> first | rfl | omega | (congr 1; omega)
    case isFalse h =>
      rw [if_neg (by simp; omega), Nat.max_eq_left (by omega)]

theorem writeBits_getElem? (b : Bitstream) (i : Nat) (vs : List Bit) (j : Nat) (h : j < b.length) :
    (writeBits b i vs).1[j]? = if i ≤ j ∧ j < i + vs.length then vs[j - i]? else b[j]? := by
  induction vs generalizing b i with
  | nil => rw [writeBits, if_neg]; simp
  | cons v vs ih =>
    rw [writeBits]
    split
    case isTrue hi =>
      rw [ih _ _ (by rw [List.length_set]; exact h)]
      by_cases hj : j = i
      · subst hj
        rw [if_neg (by omega), if_pos (by simp), Nat.sub_self, List.getElem?_cons_zero, List.getElem?_set_self h]
      · simp only [List.length_cons]
        by_cases hij : i + 1 ≤ j ∧ j < i + 1 + vs.length
        · rw [if_pos hij, if_pos (by omega), show j - i = (j - (i + 1)) + 1 by omega, List.getElem?_cons_succ]
        · rw [if_neg hij, if_neg (by omega), List.getElem?_set_ne (by omega)]
    case isFalse hi => rw [if_neg (by omega)]

theorem xorBits_getElem? (a b : Bitstream) (h : a.length = b.length) (i : Nat) (hi : i < a.length) :
    (xorBits a b)[i]? = some (a.getD i false ^^ b.getD i false) := by
  rw [xorBits, List.getElem?_zipWith]
  simp [List.getD_eq_getElem?_getD, List.getElem?_eq_getElem hi, List.getElem?_eq_getElem (h ▸ hi)]

/-! ## Readings back -/

theorem hexDigits_toHex (p : Nat → Bit) (b : Bitstream) :
    hexDigits (toHex p b) = ((units p 4 b).reverse.map (BitVec.ofNat 4)) := by
  rw [toHex, ← hexDigits_map ((units p 4 b).reverse.map (BitVec.ofNat 4)), List.map_map]; rfl

theorem hexValue_reverse_units (l : List Nat) (hl : ∀ v ∈ l, v < 16) :
    hexValue (l.reverse.map (BitVec.ofNat 4)) = val (l.flatMap (bs 4)) := by
  induction l with
  | nil => rfl
  | cons v l ih =>
    have hv := hl v (List.mem_cons_self ..)
    rw [List.reverse_cons, List.map_append, List.map_singleton, hexValue_concat,
      ih (fun w hw => hl w (List.mem_cons_of_mem _ hw)),
      List.flatMap_cons, val_append, val_bs, bs_length, BitVec.toNat_ofNat]
    omega

theorem bs_val_take (b : Bitstream) (l : List Bit) (h : l.take b.length = b) : bs b.length (val l) = b := by
  refine bs_val b _ fun i hi => ?_
  rw [val_testBit, List.getD_eq_getElem?_getD, List.getD_eq_getElem?_getD]
  conv_rhs => rw [← h]
  rw [List.getElem?_take_of_lt hi]

theorem ofHex_toHex (p : Nat → Bit) (b : Bitstream) : ofHex b.length (toHex p b) = b := by
  rw [ofHex, ofHexDigits, hexDigits_toHex, hexValue_reverse_units _ (fun v hv => units_lt _ _ _ _ hv),
    flatMap_units _ _ _ (by decide)]
  have : bs b.length (val (padded p 4 b) % 2 ^ b.length) = bs b.length (val (padded p 4 b)) := by
    apply List.ext_getElem? fun i => ?_
    by_cases hi : i < b.length
    · rw [bs_getElem? _ _ _ hi, bs_getElem? _ _ _ hi, Nat.testBit_mod_two_pow]; simp [hi]
    · rw [List.getElem?_eq_none (by simp; omega), List.getElem?_eq_none (by simp; omega)]
  rw [this, bs_val_take _ _ (padded_take _ _ _)]

theorem flatMap_ofNat8 (l : List Nat) (h : ∀ v ∈ l, v < 2 ^ 8) :
    (l.map (BitVec.ofNat 8)).flatMap (fun b => bs 8 b.toNat) = l.flatMap (bs 8) := by
  rw [List.flatMap_map]
  apply List.flatMap_congr
  intro v hv
  rw [BitVec.toNat_ofNat, Nat.mod_eq_of_lt (h v hv)]

theorem flatMap_ofNat16 (l : List Nat) (h : ∀ v ∈ l, v < 2 ^ 16) :
    (l.map (BitVec.ofNat 16)).flatMap (fun b => bs 16 b.toNat) = l.flatMap (bs 16) := by
  rw [List.flatMap_map]
  apply List.flatMap_congr
  intro v hv
  rw [BitVec.toNat_ofNat, Nat.mod_eq_of_lt (h v hv)]

theorem ofChars_toChars (p : Nat → Bit) (b : Bitstream) : ofChars b.length (toChars p b) = b := by
  rw [ofChars, toChars, flatMap_ofNat8 _ (fun v hv => units_lt _ _ _ _ hv), flatMap_units _ _ _ (by decide),
    padded_take]

theorem ofWords_toWords (p : Nat → Bit) (b : Bitstream) : ofWords b.length (toWords p b) = b := by
  rw [ofWords, toWords, flatMap_ofNat16 _ (fun v hv => units_lt _ _ _ _ hv), flatMap_units _ _ _ (by decide),
    padded_take]

theorem firstBadChar_append (l : List Byte) (j) (h : l.all (fun c => c == 0x30#8 || c == 0x31#8) = true) (r :
    List Byte) : firstBadChar j (l ++ r) = firstBadChar (j + l.length) r := by
  induction l generalizing j with
  | nil => rfl
  | cons c l ih =>
    obtain ⟨hc, hl⟩ : (c = 0x30#8 ∨ c = 0x31#8) ∧ l.all (fun c => c == 0x30#8 || c == 0x31#8) = true :=
      by simpa using h
    have : (bitChar? c).isSome = true := by rcases hc with rfl | rfl <;> rfl
    rw [List.cons_append, firstBadChar, if_pos this, ih (j+1) hl, List.length_cons, Nat.add_right_comm,
      Nat.add_assoc]

theorem ofBinary_toBinary (b : Bitstream) : ofBinary (toBinary b) = b := by
  rw [ofBinary, toBinary, List.map_map]
  have : ((fun c : Byte => c == 0x31#8) ∘ bitChar) = id := by funext v; cases v <;> rfl
  rw [this, List.map_id, List.reverse_reverse]

/-- Every Bitstream comes back from each of its serialisations (40_bitstream.md R155). -/
theorem roundTrips_all (b : Bitstream) : roundTrips b :=
  ⟨ofBinary_toBinary b, fun p => ⟨ofHex_toHex p b, ofChars_toChars p b, ofWords_toWords p b⟩⟩

theorem hexDigits_append (a b) : hexDigits (a ++ b) = hexDigits a ++ hexDigits b := by simp [hexDigits]

theorem flatMap_bs_getElem {α : Type} (u : Nat) (hu : 0 < u) (f : α → Nat) (l : List α) (z : α) (i : Nat) (hi :
    i < l.length * u) :
    (l.flatMap fun b => bs u (f b))[i]? = some ((f (l.getD (i / u) z)).testBit (i % u)) := by
  induction l generalizing i with
  | nil => simp at hi
  | cons x l ih =>
    rw [List.flatMap_cons]
    by_cases h : i < u
    · rw [List.getElem?_append_left (by simpa using h), bs_getElem? _ _ _ h, Nat.div_eq_of_lt h,
        Nat.mod_eq_of_lt h]; rfl
    · have h' : u ≤ i := Nat.le_of_not_lt h
      rw [List.getElem?_append_right (by simpa using h'), bs_length, ih (i - u)]
      · have h1 : i / u = (i - u) / u + 1 := by rw [Nat.div_eq_sub_div hu h']
        rw [h1, List.getD_cons_succ, Nat.mod_eq_sub_mod h']
      · rw [List.length_cons, Nat.succ_mul] at hi; omega

theorem flatMap_bs_length {α : Type} (u : Nat) (f : α → Nat) (l : List α) :
    (l.flatMap fun b => bs u (f b)).length = l.length * u := by
  induction l with
  | nil => simp
  | cons x l ih => rw [List.flatMap_cons, List.length_append, ih, bs_length, List.length_cons]; ring

theorem ofChars_spec (n : Nat) (l : List Byte) (h : ceilDiv n 8 ≤ l.length) : (ofChars n l).length = n ∧
    ∀ i, i < n → (ofChars n l)[i]? = some ((l.getD (i / 8) 0).toNat.testBit (i % 8)) := by
  have h8 : n ≤ l.length * 8 := le_trans (le_ceilDiv_mul n 8 (by decide)) (Nat.mul_le_mul_right 8 h)
  refine ⟨?_, fun i hi => ?_⟩
  · rw [ofChars, List.length_take, flatMap_bs_length]; omega
  · rw [ofChars, List.getElem?_take_of_lt hi]
    exact flatMap_bs_getElem 8 (by decide) (fun b : Byte => b.toNat) l 0 i (by omega)

theorem ofWords_spec (n : Nat) (l : List Word) (h : ceilDiv n 16 ≤ l.length) : (ofWords n l).length = n ∧
    ∀ i, i < n → (ofWords n l)[i]? = some ((l.getD (i / 16) 0).toNat.testBit (i % 16)) := by
  have h8 : n ≤ l.length * 16 := le_trans (le_ceilDiv_mul n 16 (by decide)) (Nat.mul_le_mul_right 16 h)
  refine ⟨?_, fun i hi => ?_⟩
  · rw [ofWords, List.length_take, flatMap_bs_length]; omega
  · rw [ofWords, List.getElem?_take_of_lt hi]
    exact flatMap_bs_getElem 16 (by decide) (fun b : Word => b.toNat) l 0 i (by omega)

theorem takeHexDigits_enough (need : Nat) (r : List Byte) (h : need ≤ (hexDigits r).length) : ∃ used rest,
    r = used ++ rest ∧
    takeHexDigits need r = (hexDigits used, rest) ∧ (hexDigits used).length = need ∧ (∀ x ∈ used.getLast?,
      (hexDigit? x).isSome = true) := by
  induction r generalizing need with
  | nil =>
    cases need with
    | zero => exact ⟨[], [], rfl, rfl, rfl, by simp⟩
    | succ n => simp [hexDigits] at h
  | cons b r ih =>
    cases need with
    | zero => exact ⟨[], b :: r, rfl, rfl, rfl, by simp⟩
    | succ need =>
      cases hb : hexDigit? b with
      | none =>
        have hd : hexDigits (b :: r) = hexDigits r := by simp [hexDigits, hb]
        rw [hd] at h
        obtain ⟨used, rest, h1, h2, h3, h4⟩ := ih _ h
        refine ⟨b :: used, rest, by rw [h1]; rfl, ?_, ?_, ?_⟩
        · rw [takeHexDigits, hb]; simp only [h2]; simp [hexDigits, hb]
        · rw [← h3]; simp [hexDigits, hb]
        · cases used with
          | nil => simp [hexDigits] at h3
          | cons x used => simpa using h4
      | some d =>
        have hd : hexDigits (b :: r) = d :: hexDigits r := by simp [hexDigits, hb]
        rw [hd] at h
        obtain ⟨used, rest, h1, h2, h3, h4⟩ := ih need (by simpa using h)
        refine ⟨b :: used, rest, by rw [h1]; rfl, ?_, ?_, ?_⟩
        · rw [takeHexDigits, hb]; simp only [h2]; simp [hexDigits, hb]
        · rw [← h3]; simp [hexDigits, hb]
        · cases used with
          | nil => simp [hb]
          | cons x used => simpa using h4

theorem takeHexDigits_short (need : Nat) (r : List Byte) (h : (hexDigits r).length < need) :
    takeHexDigits need r = (hexDigits r, []) := by
  induction r generalizing need with
  | nil => cases need with
    | zero => omega
    | succ n => rfl
  | cons b r ih =>
    cases need with
    | zero => omega
    | succ need =>
      cases hb : hexDigit? b with
      | none =>
        have hd : hexDigits (b :: r) = hexDigits r := by simp [hexDigits, hb]
        rw [hd] at h ⊢
        rw [takeHexDigits, hb]; simp only [ih _ h]
      | some d =>
        have hd : hexDigits (b :: r) = d :: hexDigits r := by simp [hexDigits, hb]
        rw [hd] at h ⊢
        rw [takeHexDigits, hb]; simp only [ih need (by simpa using h)]

theorem xorBits_length (a b : Bitstream) (h : a.length = b.length) : (xorBits a b).length = a.length :=
    by simp [xorBits, h]

theorem xorBits_xorBits (a b : Bitstream) (h : a.length = b.length) : xorBits (xorBits a b) b = a := by
  induction a generalizing b with
  | nil => cases b <;> simp_all [xorBits]
  | cons x a ih => cases b with
    | nil => simp at h
    | cons y b =>
      have := ih b (by simpa using h)
      simp only [xorBits, List.zipWith_cons_cons] at this ⊢
      rw [this]; simp

theorem firstZero_some (b : Bitstream) (d : Nat) (h : b[d]? = some false) (hj : ∀ j, j < d → b[j]? = some true) :
    firstZero b = some d := by
  induction d generalizing b with
  | zero => cases b with
    | nil => simp at h
    | cons x b => simp at h; subst h; rfl
  | succ d ih => cases b with
    | nil => simp at h
    | cons x b =>
      have h0 := hj 0 (by omega)
      simp at h0; subst h0
      rw [firstZero, if_pos rfl, ih b (by simpa using h) (fun j hjd => by simpa using hj (j+1) (by omega))]
      rfl

theorem firstZero_none (b : Bitstream) (hj : ∀ j, j < b.length → b[j]? = some true) : firstZero b = none := by
  induction b with
  | nil => rfl
  | cons x b ih =>
    have h0 := hj 0 (by simp)
    simp at h0; subst h0
    rw [firstZero, if_pos rfl, ih (fun j hjd => by simpa using hj (j+1) (by simpa using hjd))]
    rfl

end Sys2Proof.Machine
end

