-- ==== Sys2Proof/Laws/State.lean ====
section
/-!
SUPPORT. What each update of the state does to each field: one lemma per field per update, true by `rfl`.
-/
namespace Sys2Proof.Machine

@[simp] theorem reply_tap (v : Value) (s : State) : (reply v s).tap = s.tap := rfl
@[simp] theorem reply_endir (v : Value) (s : State) : (reply v s).endir = s.endir := rfl
@[simp] theorem reply_enddr (v : Value) (s : State) : (reply v s).enddr = s.enddr := rfl
@[simp] theorem reply_hir (v : Value) (s : State) : (reply v s).hir = s.hir := rfl
@[simp] theorem reply_hdr (v : Value) (s : State) : (reply v s).hdr = s.hdr := rfl
@[simp] theorem reply_tir (v : Value) (s : State) : (reply v s).tir = s.tir := rfl
@[simp] theorem reply_tdr (v : Value) (s : State) : (reply v s).tdr = s.tdr := rfl
@[simp] theorem reply_numdev (v : Value) (s : State) : (reply v s).numdev = s.numdev := rfl
@[simp] theorem reply_idcodes (v : Value) (s : State) : (reply v s).idcodes = s.idcodes := rfl
@[simp] theorem reply_pc (v : Value) (s : State) : (reply v s).pc = s.pc := rfl
@[simp] theorem reply_fault (v : Value) (s : State) : (reply v s).fault = s.fault := rfl
@[simp] theorem reply_tck (v : Value) (s : State) : (reply v s).tck = s.tck := rfl
@[simp] theorem reply_tms (v : Value) (s : State) : (reply v s).tms = s.tms := rfl
@[simp] theorem reply_tdi (v : Value) (s : State) : (reply v s).tdi = s.tdi := rfl
@[simp] theorem reply_cancel (v : Value) (s : State) : (reply v s).cancel = s.cancel := rfl
@[simp] theorem reply_trace (v : Value) (s : State) : (reply v s).trace = s.trace := rfl
@[simp] theorem reply_accesses (v : Value) (s : State) : (reply v s).accesses = s.accesses := rfl
@[simp] theorem reply_text (v : Value) (s : State) : (reply v s).text = s.text := rfl
@[simp] theorem reply_running (v : Value) (s : State) : (reply v s).running = s.running := rfl
@[simp] theorem reply_call (v : Value) (s : State) : (reply v s).call = s.call := rfl
@[simp] theorem reply_outcome (v : Value) (s : State) : (reply v s).outcome = some (.ok v) := rfl
@[simp] theorem reply_holder (v : Value) (s : State) : (reply v s).holder = s.holder := rfl
@[simp] theorem reply_reader (v : Value) (s : State) : (reply v s).reader = s.reader := rfl

@[simp] theorem replyError_tap (e : OpError) (s : State) : (replyError e s).tap = s.tap := rfl
@[simp] theorem replyError_endir (e : OpError) (s : State) : (replyError e s).endir = s.endir := rfl
@[simp] theorem replyError_enddr (e : OpError) (s : State) : (replyError e s).enddr = s.enddr := rfl
@[simp] theorem replyError_hir (e : OpError) (s : State) : (replyError e s).hir = s.hir := rfl
@[simp] theorem replyError_hdr (e : OpError) (s : State) : (replyError e s).hdr = s.hdr := rfl
@[simp] theorem replyError_tir (e : OpError) (s : State) : (replyError e s).tir = s.tir := rfl
@[simp] theorem replyError_tdr (e : OpError) (s : State) : (replyError e s).tdr = s.tdr := rfl
@[simp] theorem replyError_numdev (e : OpError) (s : State) : (replyError e s).numdev = s.numdev := rfl
@[simp] theorem replyError_idcodes (e : OpError) (s : State) : (replyError e s).idcodes = s.idcodes := rfl
@[simp] theorem replyError_pc (e : OpError) (s : State) : (replyError e s).pc = s.pc := rfl
@[simp] theorem replyError_fault (e : OpError) (s : State) : (replyError e s).fault = s.fault := rfl
@[simp] theorem replyError_tck (e : OpError) (s : State) : (replyError e s).tck = s.tck := rfl
@[simp] theorem replyError_tms (e : OpError) (s : State) : (replyError e s).tms = s.tms := rfl
@[simp] theorem replyError_tdi (e : OpError) (s : State) : (replyError e s).tdi = s.tdi := rfl
@[simp] theorem replyError_cancel (e : OpError) (s : State) : (replyError e s).cancel = s.cancel := rfl
@[simp] theorem replyError_trace (e : OpError) (s : State) : (replyError e s).trace = s.trace := rfl
@[simp] theorem replyError_accesses (e : OpError) (s : State) : (replyError e s).accesses = s.accesses := rfl
@[simp] theorem replyError_text (e : OpError) (s : State) : (replyError e s).text = s.text := rfl
@[simp] theorem replyError_running (e : OpError) (s : State) : (replyError e s).running = s.running := rfl
@[simp] theorem replyError_call (e : OpError) (s : State) : (replyError e s).call = s.call := rfl
@[simp] theorem replyError_outcome (e : OpError) (s : State) : (replyError e s).outcome = some (.error e) := rfl
@[simp] theorem replyError_holder (e : OpError) (s : State) : (replyError e s).holder = s.holder := rfl
@[simp] theorem replyError_reader (e : OpError) (s : State) : (replyError e s).reader = s.reader := rfl

@[simp] theorem raiseFault_tap (f : FaultCode) (s : State) : (raiseFault f s).tap = s.tap := rfl
@[simp] theorem raiseFault_endir (f : FaultCode) (s : State) : (raiseFault f s).endir = s.endir := rfl
@[simp] theorem raiseFault_enddr (f : FaultCode) (s : State) : (raiseFault f s).enddr = s.enddr := rfl
@[simp] theorem raiseFault_hir (f : FaultCode) (s : State) : (raiseFault f s).hir = s.hir := rfl
@[simp] theorem raiseFault_hdr (f : FaultCode) (s : State) : (raiseFault f s).hdr = s.hdr := rfl
@[simp] theorem raiseFault_tir (f : FaultCode) (s : State) : (raiseFault f s).tir = s.tir := rfl
@[simp] theorem raiseFault_tdr (f : FaultCode) (s : State) : (raiseFault f s).tdr = s.tdr := rfl
@[simp] theorem raiseFault_numdev (f : FaultCode) (s : State) : (raiseFault f s).numdev = s.numdev := rfl
@[simp] theorem raiseFault_idcodes (f : FaultCode) (s : State) : (raiseFault f s).idcodes = s.idcodes := rfl
@[simp] theorem raiseFault_pc (f : FaultCode) (s : State) : (raiseFault f s).pc = s.pc := rfl
@[simp] theorem raiseFault_fault (f : FaultCode) (s : State) : (raiseFault f s).fault = some f := rfl
@[simp] theorem raiseFault_tck (f : FaultCode) (s : State) : (raiseFault f s).tck = s.tck := rfl
@[simp] theorem raiseFault_tms (f : FaultCode) (s : State) : (raiseFault f s).tms = s.tms := rfl
@[simp] theorem raiseFault_tdi (f : FaultCode) (s : State) : (raiseFault f s).tdi = s.tdi := rfl
@[simp] theorem raiseFault_cancel (f : FaultCode) (s : State) : (raiseFault f s).cancel = s.cancel := rfl
@[simp] theorem raiseFault_trace (f : FaultCode) (s : State) : (raiseFault f s).trace = s.trace := rfl
@[simp] theorem raiseFault_accesses (f : FaultCode) (s : State) : (raiseFault f s).accesses = s.accesses := rfl
@[simp] theorem raiseFault_text (f : FaultCode) (s : State) : (raiseFault f s).text = s.text := rfl
@[simp] theorem raiseFault_running (f : FaultCode) (s : State) : (raiseFault f s).running = s.running := rfl
@[simp] theorem raiseFault_call (f : FaultCode) (s : State) : (raiseFault f s).call = s.call := rfl
@[simp] theorem raiseFault_outcome (f : FaultCode) (s : State) : (raiseFault f s).outcome = none := rfl
@[simp] theorem raiseFault_holder (f : FaultCode) (s : State) : (raiseFault f s).holder = s.holder := rfl
@[simp] theorem raiseFault_reader (f : FaultCode) (s : State) : (raiseFault f s).reader = s.reader := rfl

@[simp] theorem setHolder_tap (b : Bitstream) (s : State) : (setHolder b s).tap = s.tap := rfl
@[simp] theorem setHolder_endir (b : Bitstream) (s : State) : (setHolder b s).endir = s.endir := rfl
@[simp] theorem setHolder_enddr (b : Bitstream) (s : State) : (setHolder b s).enddr = s.enddr := rfl
@[simp] theorem setHolder_hir (b : Bitstream) (s : State) : (setHolder b s).hir = s.hir := rfl
@[simp] theorem setHolder_hdr (b : Bitstream) (s : State) : (setHolder b s).hdr = s.hdr := rfl
@[simp] theorem setHolder_tir (b : Bitstream) (s : State) : (setHolder b s).tir = s.tir := rfl
@[simp] theorem setHolder_tdr (b : Bitstream) (s : State) : (setHolder b s).tdr = s.tdr := rfl
@[simp] theorem setHolder_numdev (b : Bitstream) (s : State) : (setHolder b s).numdev = s.numdev := rfl
@[simp] theorem setHolder_idcodes (b : Bitstream) (s : State) : (setHolder b s).idcodes = s.idcodes := rfl
@[simp] theorem setHolder_pc (b : Bitstream) (s : State) : (setHolder b s).pc = s.pc := rfl
@[simp] theorem setHolder_fault (b : Bitstream) (s : State) : (setHolder b s).fault = s.fault := rfl
@[simp] theorem setHolder_tck (b : Bitstream) (s : State) : (setHolder b s).tck = s.tck := rfl
@[simp] theorem setHolder_tms (b : Bitstream) (s : State) : (setHolder b s).tms = s.tms := rfl
@[simp] theorem setHolder_tdi (b : Bitstream) (s : State) : (setHolder b s).tdi = s.tdi := rfl
@[simp] theorem setHolder_cancel (b : Bitstream) (s : State) : (setHolder b s).cancel = s.cancel := rfl
@[simp] theorem setHolder_trace (b : Bitstream) (s : State) : (setHolder b s).trace = s.trace := rfl
@[simp] theorem setHolder_accesses (b : Bitstream) (s : State) : (setHolder b s).accesses = s.accesses := rfl
@[simp] theorem setHolder_text (b : Bitstream) (s : State) : (setHolder b s).text = s.text := rfl
@[simp] theorem setHolder_running (b : Bitstream) (s : State) : (setHolder b s).running = s.running := rfl
@[simp] theorem setHolder_call (b : Bitstream) (s : State) : (setHolder b s).call = s.call := rfl
@[simp] theorem setHolder_outcome (b : Bitstream) (s : State) : (setHolder b s).outcome = s.outcome := rfl
@[simp] theorem setHolder_holder (b : Bitstream) (s : State) : (setHolder b s).holder = b := rfl
@[simp] theorem setHolder_reader (b : Bitstream) (s : State) : (setHolder b s).reader = s.reader := rfl

@[simp] theorem setReader_tap (r : List Byte) (s : State) : (setReader r s).tap = s.tap := rfl
@[simp] theorem setReader_endir (r : List Byte) (s : State) : (setReader r s).endir = s.endir := rfl
@[simp] theorem setReader_enddr (r : List Byte) (s : State) : (setReader r s).enddr = s.enddr := rfl
@[simp] theorem setReader_hir (r : List Byte) (s : State) : (setReader r s).hir = s.hir := rfl
@[simp] theorem setReader_hdr (r : List Byte) (s : State) : (setReader r s).hdr = s.hdr := rfl
@[simp] theorem setReader_tir (r : List Byte) (s : State) : (setReader r s).tir = s.tir := rfl
@[simp] theorem setReader_tdr (r : List Byte) (s : State) : (setReader r s).tdr = s.tdr := rfl
@[simp] theorem setReader_numdev (r : List Byte) (s : State) : (setReader r s).numdev = s.numdev := rfl
@[simp] theorem setReader_idcodes (r : List Byte) (s : State) : (setReader r s).idcodes = s.idcodes := rfl
@[simp] theorem setReader_pc (r : List Byte) (s : State) : (setReader r s).pc = s.pc := rfl
@[simp] theorem setReader_fault (r : List Byte) (s : State) : (setReader r s).fault = s.fault := rfl
@[simp] theorem setReader_tck (r : List Byte) (s : State) : (setReader r s).tck = s.tck := rfl
@[simp] theorem setReader_tms (r : List Byte) (s : State) : (setReader r s).tms = s.tms := rfl
@[simp] theorem setReader_tdi (r : List Byte) (s : State) : (setReader r s).tdi = s.tdi := rfl
@[simp] theorem setReader_cancel (r : List Byte) (s : State) : (setReader r s).cancel = s.cancel := rfl
@[simp] theorem setReader_trace (r : List Byte) (s : State) : (setReader r s).trace = s.trace := rfl
@[simp] theorem setReader_accesses (r : List Byte) (s : State) : (setReader r s).accesses = s.accesses := rfl
@[simp] theorem setReader_text (r : List Byte) (s : State) : (setReader r s).text = s.text := rfl
@[simp] theorem setReader_running (r : List Byte) (s : State) : (setReader r s).running = s.running := rfl
@[simp] theorem setReader_call (r : List Byte) (s : State) : (setReader r s).call = s.call := rfl
@[simp] theorem setReader_outcome (r : List Byte) (s : State) : (setReader r s).outcome = s.outcome := rfl
@[simp] theorem setReader_holder (r : List Byte) (s : State) : (setReader r s).holder = s.holder := rfl
@[simp] theorem setReader_reader (r : List Byte) (s : State) : (setReader r s).reader = r := rfl

@[simp] theorem setTck_tap (v : Bit) (s : State) : (setTck v s).tap = s.tap := rfl
@[simp] theorem setTck_endir (v : Bit) (s : State) : (setTck v s).endir = s.endir := rfl
@[simp] theorem setTck_enddr (v : Bit) (s : State) : (setTck v s).enddr = s.enddr := rfl
@[simp] theorem setTck_hir (v : Bit) (s : State) : (setTck v s).hir = s.hir := rfl
@[simp] theorem setTck_hdr (v : Bit) (s : State) : (setTck v s).hdr = s.hdr := rfl
@[simp] theorem setTck_tir (v : Bit) (s : State) : (setTck v s).tir = s.tir := rfl
@[simp] theorem setTck_tdr (v : Bit) (s : State) : (setTck v s).tdr = s.tdr := rfl
@[simp] theorem setTck_numdev (v : Bit) (s : State) : (setTck v s).numdev = s.numdev := rfl
@[simp] theorem setTck_idcodes (v : Bit) (s : State) : (setTck v s).idcodes = s.idcodes := rfl
@[simp] theorem setTck_pc (v : Bit) (s : State) : (setTck v s).pc = s.pc := rfl
@[simp] theorem setTck_fault (v : Bit) (s : State) : (setTck v s).fault = s.fault := rfl
@[simp] theorem setTck_tck (v : Bit) (s : State) : (setTck v s).tck = v := rfl
@[simp] theorem setTck_tms (v : Bit) (s : State) : (setTck v s).tms = s.tms := rfl
@[simp] theorem setTck_tdi (v : Bit) (s : State) : (setTck v s).tdi = s.tdi := rfl
@[simp] theorem setTck_cancel (v : Bit) (s : State) : (setTck v s).cancel = s.cancel := rfl
@[simp] theorem setTck_trace (v : Bit) (s : State) : (setTck v s).trace = s.trace := rfl
@[simp] theorem setTck_accesses (v : Bit) (s : State) : (setTck v s).accesses = .setTck v :: s.accesses := rfl
@[simp] theorem setTck_text (v : Bit) (s : State) : (setTck v s).text = s.text := rfl
@[simp] theorem setTck_running (v : Bit) (s : State) : (setTck v s).running = s.running := rfl
@[simp] theorem setTck_call (v : Bit) (s : State) : (setTck v s).call = s.call := rfl
@[simp] theorem setTck_outcome (v : Bit) (s : State) : (setTck v s).outcome = s.outcome := rfl
@[simp] theorem setTck_holder (v : Bit) (s : State) : (setTck v s).holder = s.holder := rfl
@[simp] theorem setTck_reader (v : Bit) (s : State) : (setTck v s).reader = s.reader := rfl

@[simp] theorem setTms_tap (v : Bit) (s : State) : (setTms v s).tap = s.tap := rfl
@[simp] theorem setTms_endir (v : Bit) (s : State) : (setTms v s).endir = s.endir := rfl
@[simp] theorem setTms_enddr (v : Bit) (s : State) : (setTms v s).enddr = s.enddr := rfl
@[simp] theorem setTms_hir (v : Bit) (s : State) : (setTms v s).hir = s.hir := rfl
@[simp] theorem setTms_hdr (v : Bit) (s : State) : (setTms v s).hdr = s.hdr := rfl
@[simp] theorem setTms_tir (v : Bit) (s : State) : (setTms v s).tir = s.tir := rfl
@[simp] theorem setTms_tdr (v : Bit) (s : State) : (setTms v s).tdr = s.tdr := rfl
@[simp] theorem setTms_numdev (v : Bit) (s : State) : (setTms v s).numdev = s.numdev := rfl
@[simp] theorem setTms_idcodes (v : Bit) (s : State) : (setTms v s).idcodes = s.idcodes := rfl
@[simp] theorem setTms_pc (v : Bit) (s : State) : (setTms v s).pc = s.pc := rfl
@[simp] theorem setTms_fault (v : Bit) (s : State) : (setTms v s).fault = s.fault := rfl
@[simp] theorem setTms_tck (v : Bit) (s : State) : (setTms v s).tck = s.tck := rfl
@[simp] theorem setTms_tms (v : Bit) (s : State) : (setTms v s).tms = v := rfl
@[simp] theorem setTms_tdi (v : Bit) (s : State) : (setTms v s).tdi = s.tdi := rfl
@[simp] theorem setTms_cancel (v : Bit) (s : State) : (setTms v s).cancel = s.cancel := rfl
@[simp] theorem setTms_trace (v : Bit) (s : State) : (setTms v s).trace = s.trace := rfl
@[simp] theorem setTms_accesses (v : Bit) (s : State) : (setTms v s).accesses = .setTms v :: s.accesses := rfl
@[simp] theorem setTms_text (v : Bit) (s : State) : (setTms v s).text = s.text := rfl
@[simp] theorem setTms_running (v : Bit) (s : State) : (setTms v s).running = s.running := rfl
@[simp] theorem setTms_call (v : Bit) (s : State) : (setTms v s).call = s.call := rfl
@[simp] theorem setTms_outcome (v : Bit) (s : State) : (setTms v s).outcome = s.outcome := rfl
@[simp] theorem setTms_holder (v : Bit) (s : State) : (setTms v s).holder = s.holder := rfl
@[simp] theorem setTms_reader (v : Bit) (s : State) : (setTms v s).reader = s.reader := rfl

@[simp] theorem setTdi_tap (v : Bit) (s : State) : (setTdi v s).tap = s.tap := rfl
@[simp] theorem setTdi_endir (v : Bit) (s : State) : (setTdi v s).endir = s.endir := rfl
@[simp] theorem setTdi_enddr (v : Bit) (s : State) : (setTdi v s).enddr = s.enddr := rfl
@[simp] theorem setTdi_hir (v : Bit) (s : State) : (setTdi v s).hir = s.hir := rfl
@[simp] theorem setTdi_hdr (v : Bit) (s : State) : (setTdi v s).hdr = s.hdr := rfl
@[simp] theorem setTdi_tir (v : Bit) (s : State) : (setTdi v s).tir = s.tir := rfl
@[simp] theorem setTdi_tdr (v : Bit) (s : State) : (setTdi v s).tdr = s.tdr := rfl
@[simp] theorem setTdi_numdev (v : Bit) (s : State) : (setTdi v s).numdev = s.numdev := rfl
@[simp] theorem setTdi_idcodes (v : Bit) (s : State) : (setTdi v s).idcodes = s.idcodes := rfl
@[simp] theorem setTdi_pc (v : Bit) (s : State) : (setTdi v s).pc = s.pc := rfl
@[simp] theorem setTdi_fault (v : Bit) (s : State) : (setTdi v s).fault = s.fault := rfl
@[simp] theorem setTdi_tck (v : Bit) (s : State) : (setTdi v s).tck = s.tck := rfl
@[simp] theorem setTdi_tms (v : Bit) (s : State) : (setTdi v s).tms = s.tms := rfl
@[simp] theorem setTdi_tdi (v : Bit) (s : State) : (setTdi v s).tdi = v := rfl
@[simp] theorem setTdi_cancel (v : Bit) (s : State) : (setTdi v s).cancel = s.cancel := rfl
@[simp] theorem setTdi_trace (v : Bit) (s : State) : (setTdi v s).trace = s.trace := rfl
@[simp] theorem setTdi_accesses (v : Bit) (s : State) : (setTdi v s).accesses = .setTdi v :: s.accesses := rfl
@[simp] theorem setTdi_text (v : Bit) (s : State) : (setTdi v s).text = s.text := rfl
@[simp] theorem setTdi_running (v : Bit) (s : State) : (setTdi v s).running = s.running := rfl
@[simp] theorem setTdi_call (v : Bit) (s : State) : (setTdi v s).call = s.call := rfl
@[simp] theorem setTdi_outcome (v : Bit) (s : State) : (setTdi v s).outcome = s.outcome := rfl
@[simp] theorem setTdi_holder (v : Bit) (s : State) : (setTdi v s).holder = s.holder := rfl
@[simp] theorem setTdi_reader (v : Bit) (s : State) : (setTdi v s).reader = s.reader := rfl

@[simp] theorem noteTdoRead_tap (s : State) : (noteTdoRead s).tap = s.tap := rfl
@[simp] theorem noteTdoRead_endir (s : State) : (noteTdoRead s).endir = s.endir := rfl
@[simp] theorem noteTdoRead_enddr (s : State) : (noteTdoRead s).enddr = s.enddr := rfl
@[simp] theorem noteTdoRead_hir (s : State) : (noteTdoRead s).hir = s.hir := rfl
@[simp] theorem noteTdoRead_hdr (s : State) : (noteTdoRead s).hdr = s.hdr := rfl
@[simp] theorem noteTdoRead_tir (s : State) : (noteTdoRead s).tir = s.tir := rfl
@[simp] theorem noteTdoRead_tdr (s : State) : (noteTdoRead s).tdr = s.tdr := rfl
@[simp] theorem noteTdoRead_numdev (s : State) : (noteTdoRead s).numdev = s.numdev := rfl
@[simp] theorem noteTdoRead_idcodes (s : State) : (noteTdoRead s).idcodes = s.idcodes := rfl
@[simp] theorem noteTdoRead_pc (s : State) : (noteTdoRead s).pc = s.pc := rfl
@[simp] theorem noteTdoRead_fault (s : State) : (noteTdoRead s).fault = s.fault := rfl
@[simp] theorem noteTdoRead_tck (s : State) : (noteTdoRead s).tck = s.tck := rfl
@[simp] theorem noteTdoRead_tms (s : State) : (noteTdoRead s).tms = s.tms := rfl
@[simp] theorem noteTdoRead_tdi (s : State) : (noteTdoRead s).tdi = s.tdi := rfl
@[simp] theorem noteTdoRead_cancel (s : State) : (noteTdoRead s).cancel = s.cancel := rfl
@[simp] theorem noteTdoRead_trace (s : State) : (noteTdoRead s).trace = s.trace := rfl
@[simp] theorem noteTdoRead_accesses (s : State) : (noteTdoRead s).accesses = .readTdo :: s.accesses := rfl
@[simp] theorem noteTdoRead_text (s : State) : (noteTdoRead s).text = s.text := rfl
@[simp] theorem noteTdoRead_running (s : State) : (noteTdoRead s).running = s.running := rfl
@[simp] theorem noteTdoRead_call (s : State) : (noteTdoRead s).call = s.call := rfl
@[simp] theorem noteTdoRead_outcome (s : State) : (noteTdoRead s).outcome = s.outcome := rfl
@[simp] theorem noteTdoRead_holder (s : State) : (noteTdoRead s).holder = s.holder := rfl
@[simp] theorem noteTdoRead_reader (s : State) : (noteTdoRead s).reader = s.reader := rfl

@[simp] theorem pulse_tap (c : Params) (s : State) : (pulse c s).tap = s.tap := rfl
@[simp] theorem pulse_endir (c : Params) (s : State) : (pulse c s).endir = s.endir := rfl
@[simp] theorem pulse_enddr (c : Params) (s : State) : (pulse c s).enddr = s.enddr := rfl
@[simp] theorem pulse_hir (c : Params) (s : State) : (pulse c s).hir = s.hir := rfl
@[simp] theorem pulse_hdr (c : Params) (s : State) : (pulse c s).hdr = s.hdr := rfl
@[simp] theorem pulse_tir (c : Params) (s : State) : (pulse c s).tir = s.tir := rfl
@[simp] theorem pulse_tdr (c : Params) (s : State) : (pulse c s).tdr = s.tdr := rfl
@[simp] theorem pulse_numdev (c : Params) (s : State) : (pulse c s).numdev = s.numdev := rfl
@[simp] theorem pulse_idcodes (c : Params) (s : State) : (pulse c s).idcodes = s.idcodes := rfl
@[simp] theorem pulse_pc (c : Params) (s : State) : (pulse c s).pc = s.pc := rfl
@[simp] theorem pulse_fault (c : Params) (s : State) : (pulse c s).fault = s.fault := rfl
@[simp] theorem pulse_tck (c : Params) (s : State) : (pulse c s).tck = s.tck := rfl
@[simp] theorem pulse_tms (c : Params) (s : State) : (pulse c s).tms = s.tms := rfl
@[simp] theorem pulse_tdi (c : Params) (s : State) : (pulse c s).tdi = s.tdi := rfl
@[simp] theorem pulse_cancel (c : Params) (s : State) : (pulse c s).cancel = s.cancel := rfl
@[simp] theorem pulse_trace (c : Params) (s : State) : (pulse c s).trace = s.trace ++ [pulseEvent c s] := rfl
@[simp] theorem pulse_accesses (c : Params) (s : State) : (pulse c s).accesses = .pulse :: s.accesses := rfl
@[simp] theorem pulse_text (c : Params) (s : State) : (pulse c s).text = s.text := rfl
@[simp] theorem pulse_running (c : Params) (s : State) : (pulse c s).running = s.running := rfl
@[simp] theorem pulse_call (c : Params) (s : State) : (pulse c s).call = s.call := rfl
@[simp] theorem pulse_outcome (c : Params) (s : State) : (pulse c s).outcome = s.outcome := rfl
@[simp] theorem pulse_holder (c : Params) (s : State) : (pulse c s).holder = s.holder := rfl
@[simp] theorem pulse_reader (c : Params) (s : State) : (pulse c s).reader = s.reader := rfl

@[simp] theorem notePadding_tap (s : State) : (notePadding s).tap = s.tap := rfl
@[simp] theorem notePadding_endir (s : State) : (notePadding s).endir = s.endir := rfl
@[simp] theorem notePadding_enddr (s : State) : (notePadding s).enddr = s.enddr := rfl
@[simp] theorem notePadding_hir (s : State) : (notePadding s).hir = s.hir := rfl
@[simp] theorem notePadding_hdr (s : State) : (notePadding s).hdr = s.hdr := rfl
@[simp] theorem notePadding_tir (s : State) : (notePadding s).tir = s.tir := rfl
@[simp] theorem notePadding_tdr (s : State) : (notePadding s).tdr = s.tdr := rfl
@[simp] theorem notePadding_numdev (s : State) : (notePadding s).numdev = s.numdev := rfl
@[simp] theorem notePadding_idcodes (s : State) : (notePadding s).idcodes = s.idcodes := rfl
@[simp] theorem notePadding_pc (s : State) : (notePadding s).pc = s.pc := rfl
@[simp] theorem notePadding_fault (s : State) : (notePadding s).fault = s.fault := rfl
@[simp] theorem notePadding_tck (s : State) : (notePadding s).tck = s.tck := rfl
@[simp] theorem notePadding_tms (s : State) : (notePadding s).tms = s.tms := rfl
@[simp] theorem notePadding_tdi (s : State) : (notePadding s).tdi = s.tdi := rfl
@[simp] theorem notePadding_cancel (s : State) : (notePadding s).cancel = s.cancel := rfl
@[simp] theorem notePadding_trace (s : State) : (notePadding s).trace = s.trace := rfl
@[simp] theorem notePadding_accesses (s : State) : (notePadding s).accesses = .padding :: s.accesses := rfl
@[simp] theorem notePadding_text (s : State) : (notePadding s).text = s.text := rfl
@[simp] theorem notePadding_running (s : State) : (notePadding s).running = s.running := rfl
@[simp] theorem notePadding_call (s : State) : (notePadding s).call = s.call := rfl
@[simp] theorem notePadding_outcome (s : State) : (notePadding s).outcome = s.outcome := rfl
@[simp] theorem notePadding_holder (s : State) : (notePadding s).holder = s.holder := rfl
@[simp] theorem notePadding_reader (s : State) : (notePadding s).reader = s.reader := rfl

@[simp] theorem setTap_tap (t : TapState) (s : State) : (setTap t s).tap = t := rfl
@[simp] theorem setTap_endir (t : TapState) (s : State) : (setTap t s).endir = s.endir := rfl
@[simp] theorem setTap_enddr (t : TapState) (s : State) : (setTap t s).enddr = s.enddr := rfl
@[simp] theorem setTap_hir (t : TapState) (s : State) : (setTap t s).hir = s.hir := rfl
@[simp] theorem setTap_hdr (t : TapState) (s : State) : (setTap t s).hdr = s.hdr := rfl
@[simp] theorem setTap_tir (t : TapState) (s : State) : (setTap t s).tir = s.tir := rfl
@[simp] theorem setTap_tdr (t : TapState) (s : State) : (setTap t s).tdr = s.tdr := rfl
@[simp] theorem setTap_numdev (t : TapState) (s : State) : (setTap t s).numdev = s.numdev := rfl
@[simp] theorem setTap_idcodes (t : TapState) (s : State) : (setTap t s).idcodes = s.idcodes := rfl
@[simp] theorem setTap_pc (t : TapState) (s : State) : (setTap t s).pc = s.pc := rfl
@[simp] theorem setTap_fault (t : TapState) (s : State) : (setTap t s).fault = s.fault := rfl
@[simp] theorem setTap_tck (t : TapState) (s : State) : (setTap t s).tck = s.tck := rfl
@[simp] theorem setTap_tms (t : TapState) (s : State) : (setTap t s).tms = s.tms := rfl
@[simp] theorem setTap_tdi (t : TapState) (s : State) : (setTap t s).tdi = s.tdi := rfl
@[simp] theorem setTap_cancel (t : TapState) (s : State) : (setTap t s).cancel = s.cancel := rfl
@[simp] theorem setTap_trace (t : TapState) (s : State) : (setTap t s).trace = s.trace := rfl
@[simp] theorem setTap_accesses (t : TapState) (s : State) : (setTap t s).accesses = s.accesses := rfl
@[simp] theorem setTap_text (t : TapState) (s : State) : (setTap t s).text = s.text := rfl
@[simp] theorem setTap_running (t : TapState) (s : State) : (setTap t s).running = s.running := rfl
@[simp] theorem setTap_call (t : TapState) (s : State) : (setTap t s).call = s.call := rfl
@[simp] theorem setTap_outcome (t : TapState) (s : State) : (setTap t s).outcome = s.outcome := rfl
@[simp] theorem setTap_holder (t : TapState) (s : State) : (setTap t s).holder = s.holder := rfl
@[simp] theorem setTap_reader (t : TapState) (s : State) : (setTap t s).reader = s.reader := rfl

@[simp] theorem notePoll_tap (c : Params) (s : State) : (notePoll c s).tap = s.tap := rfl
@[simp] theorem notePoll_endir (c : Params) (s : State) : (notePoll c s).endir = s.endir := rfl
@[simp] theorem notePoll_enddr (c : Params) (s : State) : (notePoll c s).enddr = s.enddr := rfl
@[simp] theorem notePoll_hir (c : Params) (s : State) : (notePoll c s).hir = s.hir := rfl
@[simp] theorem notePoll_hdr (c : Params) (s : State) : (notePoll c s).hdr = s.hdr := rfl
@[simp] theorem notePoll_tir (c : Params) (s : State) : (notePoll c s).tir = s.tir := rfl
@[simp] theorem notePoll_tdr (c : Params) (s : State) : (notePoll c s).tdr = s.tdr := rfl
@[simp] theorem notePoll_numdev (c : Params) (s : State) : (notePoll c s).numdev = s.numdev := rfl
@[simp] theorem notePoll_idcodes (c : Params) (s : State) : (notePoll c s).idcodes = s.idcodes := rfl
@[simp] theorem notePoll_pc (c : Params) (s : State) : (notePoll c s).pc = s.pc := rfl
@[simp] theorem notePoll_fault (c : Params) (s : State) : (notePoll c s).fault = s.fault := rfl
@[simp] theorem notePoll_tck (c : Params) (s : State) : (notePoll c s).tck = s.tck := rfl
@[simp] theorem notePoll_tms (c : Params) (s : State) : (notePoll c s).tms = s.tms := rfl
@[simp] theorem notePoll_tdi (c : Params) (s : State) : (notePoll c s).tdi = s.tdi := rfl
@[simp] theorem notePoll_cancel (c : Params) (s : State) :
  (notePoll c s).cancel = c.cancel s.pins s.trace s.accesses := rfl
@[simp] theorem notePoll_trace (c : Params) (s : State) : (notePoll c s).trace = s.trace := rfl
@[simp] theorem notePoll_accesses (c : Params) (s : State) : (notePoll c s).accesses = .poll :: s.accesses := rfl
@[simp] theorem notePoll_text (c : Params) (s : State) : (notePoll c s).text = s.text := rfl
@[simp] theorem notePoll_running (c : Params) (s : State) : (notePoll c s).running = s.running := rfl
@[simp] theorem notePoll_call (c : Params) (s : State) : (notePoll c s).call = s.call := rfl
@[simp] theorem notePoll_outcome (c : Params) (s : State) : (notePoll c s).outcome = s.outcome := rfl
@[simp] theorem notePoll_holder (c : Params) (s : State) : (notePoll c s).holder = s.holder := rfl
@[simp] theorem notePoll_reader (c : Params) (s : State) : (notePoll c s).reader = s.reader := rfl

@[simp] theorem endRun_tap (o : OpOutcome) (s : State) : (endRun o s).tap = s.tap := rfl
@[simp] theorem endRun_endir (o : OpOutcome) (s : State) : (endRun o s).endir = s.endir := rfl
@[simp] theorem endRun_enddr (o : OpOutcome) (s : State) : (endRun o s).enddr = s.enddr := rfl
@[simp] theorem endRun_hir (o : OpOutcome) (s : State) : (endRun o s).hir = s.hir := rfl
@[simp] theorem endRun_hdr (o : OpOutcome) (s : State) : (endRun o s).hdr = s.hdr := rfl
@[simp] theorem endRun_tir (o : OpOutcome) (s : State) : (endRun o s).tir = s.tir := rfl
@[simp] theorem endRun_tdr (o : OpOutcome) (s : State) : (endRun o s).tdr = s.tdr := rfl
@[simp] theorem endRun_numdev (o : OpOutcome) (s : State) : (endRun o s).numdev = s.numdev := rfl
@[simp] theorem endRun_idcodes (o : OpOutcome) (s : State) : (endRun o s).idcodes = s.idcodes := rfl
@[simp] theorem endRun_pc (o : OpOutcome) (s : State) : (endRun o s).pc = s.pc := rfl
@[simp] theorem endRun_fault (o : OpOutcome) (s : State) : (endRun o s).fault = s.fault := rfl
@[simp] theorem endRun_tck (o : OpOutcome) (s : State) : (endRun o s).tck = s.tck := rfl
@[simp] theorem endRun_tms (o : OpOutcome) (s : State) : (endRun o s).tms = s.tms := rfl
@[simp] theorem endRun_tdi (o : OpOutcome) (s : State) : (endRun o s).tdi = s.tdi := rfl
@[simp] theorem endRun_cancel (o : OpOutcome) (s : State) : (endRun o s).cancel = s.cancel := rfl
@[simp] theorem endRun_trace (o : OpOutcome) (s : State) : (endRun o s).trace = s.trace := rfl
@[simp] theorem endRun_accesses (o : OpOutcome) (s : State) : (endRun o s).accesses = s.accesses := rfl
@[simp] theorem endRun_text (o : OpOutcome) (s : State) : (endRun o s).text = s.text := rfl
@[simp] theorem endRun_running (o : OpOutcome) (s : State) : (endRun o s).running = false := rfl
@[simp] theorem endRun_call (o : OpOutcome) (s : State) : (endRun o s).call = s.call := rfl
@[simp] theorem endRun_outcome (o : OpOutcome) (s : State) : (endRun o s).outcome = some o := rfl
@[simp] theorem endRun_holder (o : OpOutcome) (s : State) : (endRun o s).holder = s.holder := rfl
@[simp] theorem endRun_reader (o : OpOutcome) (s : State) : (endRun o s).reader = s.reader := rfl

@[simp] theorem setIdcodes_tap (bs : List Bitstream) (s : State) : (setIdcodes bs s).tap = s.tap := rfl
@[simp] theorem setIdcodes_endir (bs : List Bitstream) (s : State) : (setIdcodes bs s).endir = s.endir := rfl
@[simp] theorem setIdcodes_enddr (bs : List Bitstream) (s : State) : (setIdcodes bs s).enddr = s.enddr := rfl
@[simp] theorem setIdcodes_hir (bs : List Bitstream) (s : State) : (setIdcodes bs s).hir = s.hir := rfl
@[simp] theorem setIdcodes_hdr (bs : List Bitstream) (s : State) : (setIdcodes bs s).hdr = s.hdr := rfl
@[simp] theorem setIdcodes_tir (bs : List Bitstream) (s : State) : (setIdcodes bs s).tir = s.tir := rfl
@[simp] theorem setIdcodes_tdr (bs : List Bitstream) (s : State) : (setIdcodes bs s).tdr = s.tdr := rfl
@[simp] theorem setIdcodes_numdev (bs : List Bitstream) (s : State) : (setIdcodes bs s).numdev = s.numdev := rfl
@[simp] theorem setIdcodes_idcodes (bs : List Bitstream) (s : State) : (setIdcodes bs s).idcodes = bs := rfl
@[simp] theorem setIdcodes_pc (bs : List Bitstream) (s : State) : (setIdcodes bs s).pc = s.pc := rfl
@[simp] theorem setIdcodes_fault (bs : List Bitstream) (s : State) : (setIdcodes bs s).fault = s.fault := rfl
@[simp] theorem setIdcodes_tck (bs : List Bitstream) (s : State) : (setIdcodes bs s).tck = s.tck := rfl
@[simp] theorem setIdcodes_tms (bs : List Bitstream) (s : State) : (setIdcodes bs s).tms = s.tms := rfl
@[simp] theorem setIdcodes_tdi (bs : List Bitstream) (s : State) : (setIdcodes bs s).tdi = s.tdi := rfl
@[simp] theorem setIdcodes_cancel (bs : List Bitstream) (s : State) : (setIdcodes bs s).cancel = s.cancel := rfl
@[simp] theorem setIdcodes_trace (bs : List Bitstream) (s : State) : (setIdcodes bs s).trace = s.trace := rfl
@[simp] theorem setIdcodes_accesses (bs : List Bitstream) (s : State) :
  (setIdcodes bs s).accesses = s.accesses := rfl
@[simp] theorem setIdcodes_text (bs : List Bitstream) (s : State) : (setIdcodes bs s).text = s.text := rfl
@[simp] theorem setIdcodes_running (bs : List Bitstream) (s : State) : (setIdcodes bs s).running = s.running := rfl
@[simp] theorem setIdcodes_call (bs : List Bitstream) (s : State) : (setIdcodes bs s).call = s.call := rfl
@[simp] theorem setIdcodes_outcome (bs : List Bitstream) (s : State) : (setIdcodes bs s).outcome = s.outcome := rfl
@[simp] theorem setIdcodes_holder (bs : List Bitstream) (s : State) : (setIdcodes bs s).holder = s.holder := rfl
@[simp] theorem setIdcodes_reader (bs : List Bitstream) (s : State) : (setIdcodes bs s).reader = s.reader := rfl

@[simp] theorem setPc_tap (n : Nat) (s : State) : (setPc n s).tap = s.tap := rfl
@[simp] theorem setPc_endir (n : Nat) (s : State) : (setPc n s).endir = s.endir := rfl
@[simp] theorem setPc_enddr (n : Nat) (s : State) : (setPc n s).enddr = s.enddr := rfl
@[simp] theorem setPc_hir (n : Nat) (s : State) : (setPc n s).hir = s.hir := rfl
@[simp] theorem setPc_hdr (n : Nat) (s : State) : (setPc n s).hdr = s.hdr := rfl
@[simp] theorem setPc_tir (n : Nat) (s : State) : (setPc n s).tir = s.tir := rfl
@[simp] theorem setPc_tdr (n : Nat) (s : State) : (setPc n s).tdr = s.tdr := rfl
@[simp] theorem setPc_numdev (n : Nat) (s : State) : (setPc n s).numdev = s.numdev := rfl
@[simp] theorem setPc_idcodes (n : Nat) (s : State) : (setPc n s).idcodes = s.idcodes := rfl
@[simp] theorem setPc_pc (n : Nat) (s : State) : (setPc n s).pc = n := rfl
@[simp] theorem setPc_fault (n : Nat) (s : State) : (setPc n s).fault = s.fault := rfl
@[simp] theorem setPc_tck (n : Nat) (s : State) : (setPc n s).tck = s.tck := rfl
@[simp] theorem setPc_tms (n : Nat) (s : State) : (setPc n s).tms = s.tms := rfl
@[simp] theorem setPc_tdi (n : Nat) (s : State) : (setPc n s).tdi = s.tdi := rfl
@[simp] theorem setPc_cancel (n : Nat) (s : State) : (setPc n s).cancel = s.cancel := rfl
@[simp] theorem setPc_trace (n : Nat) (s : State) : (setPc n s).trace = s.trace := rfl
@[simp] theorem setPc_accesses (n : Nat) (s : State) : (setPc n s).accesses = s.accesses := rfl
@[simp] theorem setPc_text (n : Nat) (s : State) : (setPc n s).text = s.text := rfl
@[simp] theorem setPc_running (n : Nat) (s : State) : (setPc n s).running = s.running := rfl
@[simp] theorem setPc_call (n : Nat) (s : State) : (setPc n s).call = s.call := rfl
@[simp] theorem setPc_outcome (n : Nat) (s : State) : (setPc n s).outcome = s.outcome := rfl
@[simp] theorem setPc_holder (n : Nat) (s : State) : (setPc n s).holder = s.holder := rfl
@[simp] theorem setPc_reader (n : Nat) (s : State) : (setPc n s).reader = s.reader := rfl

@[simp] theorem takeCall_tap (s : State) : (takeCall s).tap = s.tap := rfl
@[simp] theorem takeCall_endir (s : State) : (takeCall s).endir = s.endir := rfl
@[simp] theorem takeCall_enddr (s : State) : (takeCall s).enddr = s.enddr := rfl
@[simp] theorem takeCall_hir (s : State) : (takeCall s).hir = s.hir := rfl
@[simp] theorem takeCall_hdr (s : State) : (takeCall s).hdr = s.hdr := rfl
@[simp] theorem takeCall_tir (s : State) : (takeCall s).tir = s.tir := rfl
@[simp] theorem takeCall_tdr (s : State) : (takeCall s).tdr = s.tdr := rfl
@[simp] theorem takeCall_numdev (s : State) : (takeCall s).numdev = s.numdev := rfl
@[simp] theorem takeCall_idcodes (s : State) : (takeCall s).idcodes = s.idcodes := rfl
@[simp] theorem takeCall_pc (s : State) : (takeCall s).pc = s.pc := rfl
@[simp] theorem takeCall_fault (s : State) : (takeCall s).fault = s.fault := rfl
@[simp] theorem takeCall_tck (s : State) : (takeCall s).tck = s.tck := rfl
@[simp] theorem takeCall_tms (s : State) : (takeCall s).tms = s.tms := rfl
@[simp] theorem takeCall_tdi (s : State) : (takeCall s).tdi = s.tdi := rfl
@[simp] theorem takeCall_cancel (s : State) : (takeCall s).cancel = s.cancel := rfl
@[simp] theorem takeCall_trace (s : State) : (takeCall s).trace = s.trace := rfl
@[simp] theorem takeCall_accesses (s : State) : (takeCall s).accesses = s.accesses := rfl
@[simp] theorem takeCall_text (s : State) : (takeCall s).text = s.text := rfl
@[simp] theorem takeCall_running (s : State) : (takeCall s).running = s.running := rfl
@[simp] theorem takeCall_call (s : State) : (takeCall s).call = none := rfl
@[simp] theorem takeCall_outcome (s : State) : (takeCall s).outcome = s.outcome := rfl
@[simp] theorem takeCall_holder (s : State) : (takeCall s).holder = s.holder := rfl
@[simp] theorem takeCall_reader (s : State) : (takeCall s).reader = s.reader := rfl

@[simp] theorem setNumdev_tap (d : Option Nat) (s : State) : (setNumdev d s).tap = s.tap := rfl
@[simp] theorem setNumdev_endir (d : Option Nat) (s : State) : (setNumdev d s).endir = s.endir := rfl
@[simp] theorem setNumdev_enddr (d : Option Nat) (s : State) : (setNumdev d s).enddr = s.enddr := rfl
@[simp] theorem setNumdev_hir (d : Option Nat) (s : State) : (setNumdev d s).hir = s.hir := rfl
@[simp] theorem setNumdev_hdr (d : Option Nat) (s : State) : (setNumdev d s).hdr = s.hdr := rfl
@[simp] theorem setNumdev_tir (d : Option Nat) (s : State) : (setNumdev d s).tir = s.tir := rfl
@[simp] theorem setNumdev_tdr (d : Option Nat) (s : State) : (setNumdev d s).tdr = s.tdr := rfl
@[simp] theorem setNumdev_idcodes (d : Option Nat) (s : State) : (setNumdev d s).idcodes = s.idcodes := rfl
@[simp] theorem setNumdev_pc (d : Option Nat) (s : State) : (setNumdev d s).pc = s.pc := rfl
@[simp] theorem setNumdev_fault (d : Option Nat) (s : State) : (setNumdev d s).fault = s.fault := rfl
@[simp] theorem setNumdev_tck (d : Option Nat) (s : State) : (setNumdev d s).tck = s.tck := rfl
@[simp] theorem setNumdev_tms (d : Option Nat) (s : State) : (setNumdev d s).tms = s.tms := rfl
@[simp] theorem setNumdev_tdi (d : Option Nat) (s : State) : (setNumdev d s).tdi = s.tdi := rfl
@[simp] theorem setNumdev_cancel (d : Option Nat) (s : State) : (setNumdev d s).cancel = s.cancel := rfl
@[simp] theorem setNumdev_trace (d : Option Nat) (s : State) : (setNumdev d s).trace = s.trace := rfl
@[simp] theorem setNumdev_accesses (d : Option Nat) (s : State) : (setNumdev d s).accesses = s.accesses := rfl
@[simp] theorem setNumdev_text (d : Option Nat) (s : State) : (setNumdev d s).text = s.text := rfl
@[simp] theorem setNumdev_running (d : Option Nat) (s : State) : (setNumdev d s).running = s.running := rfl
@[simp] theorem setNumdev_call (d : Option Nat) (s : State) : (setNumdev d s).call = s.call := rfl
@[simp] theorem setNumdev_outcome (d : Option Nat) (s : State) : (setNumdev d s).outcome = s.outcome := rfl
@[simp] theorem setNumdev_holder (d : Option Nat) (s : State) : (setNumdev d s).holder = s.holder := rfl
@[simp] theorem setNumdev_reader (d : Option Nat) (s : State) : (setNumdev d s).reader = s.reader := rfl
@[simp] theorem setNumdev_numdev_some (d : Nat) (s : State) : (setNumdev (some d) s).numdev = Int.ofNat d := rfl
@[simp] theorem setNumdev_numdev_none (s : State) : (setNumdev none s).numdev = -1 := rfl

end Sys2Proof.Machine
end

