-- ==== Sys2Proof/Laws/Tap.lean ====
section
/-!
SUPPORT. The laws of the two constant tables (41_tap.md R192, R194), by going through the states.
-/
namespace Sys2Proof.Machine

theorem mem_all (a : TapState) : a ∈ TapState.all := by cases a <;> decide

@[simp] theorem walk_nil (a : TapState) : walk a [] = a := rfl

@[simp] theorem walk_cons (a : TapState) (t : Bit) (ts : List Bit) : walk a (t :: ts) = walk (next a t) ts := rfl

@[simp] theorem walk_append (a : TapState) (ts us : List Bit) : walk a (ts ++ us) = walk (walk a ts) us := by
  induction ts generalizing a with
  | nil => rfl
  | cons t ts ih => exact ih (next a t)

/-- Five pulses at TMS 1 reach TestLogicReset from every state (41_tap.md R192). -/
theorem walk_five_ones (a : TapState) : walk a [true, true, true, true, true] = .testLogicReset := by
  cases a <;> rfl

/-- The two successors of a state differ (41_tap.md R192). -/
theorem next_false_ne_true (a : TapState) : next a false ≠ next a true := by cases a <;> decide

theorem next_injective (a : TapState) (t u : Bit) (h : next a t = next a u) : t = u := by
  cases t <;> cases u
  · rfl
  · exact absurd h (next_false_ne_true a)
  · exact absurd h.symm (next_false_ne_true a)
  · rfl

/-- A route ends where it should (41_tap.md R194). -/
@[simp] theorem walk_route (a d : TapState) : walk a (route a d) = d := by cases a <;> cases d <;> rfl

theorem route_self (a : TapState) : route a a = [] := by cases a <;> rfl

theorem route_length_le (a d : TapState) : (route a d).length ≤ 8 := by cases a <;> cases d <;> decide

/-- Every TMS string makes a legal path to where it leads. -/
theorem leadsTo_statesFrom (a : TapState) (ts : List Bit) : leadsTo (walk a ts) a (statesFrom a ts) = true := by
  induction ts generalizing a with
  | nil => simp [leadsTo, statesFrom]
  | cons t ts ih =>
    rw [statesFrom, leadsTo, walk_cons, ih (next a t), Bool.and_true]
    cases t <;> simp

/-- The self-check of the tables succeeds (41_tap.md R204). -/
theorem pathsOk_eq_true : pathsOk = true := by
  refine List.all_eq_true.2 fun a _ => List.all_eq_true.2 fun d _ => ?_
  have h := leadsTo_statesFrom a (route a d)
  rwa [walk_route] at h

/-- ShiftDR and ShiftIR hold at TMS 0 (41_tap.md R196). -/
theorem next_shift_false (a : TapState) (h : a = .shiftDR ∨ a = .shiftIR) : next a false = a := by
  rcases h with rfl | rfl <;> rfl

theorem advance_eq_walk (t : Bit) (n : Nat) (a : TapState) : advance t n a = walk a (List.replicate n t) := by
  induction n generalizing a with
  | zero => rfl
  | succ n ih => exact ih (next a t)

end Sys2Proof.Machine
end

