-- ==== Sys2Proof/Laws/Ops.lean ====
section
/-!
SUPPORT. What each shared operation on the transport can do, said once: which pulses it adds (their TMS, TDI and
TDO levels), where it leaves the tracker and the pins, and that it changes nothing else.
-/
namespace Sys2Proof.Machine

/-! ## What such an operation leaves alone -/

theorem transportOnly_iff (s t : State) : transportOnly s t ↔
    t.endir = s.endir ∧ t.enddr = s.enddr ∧ t.hir = s.hir ∧ t.hdr = s.hdr ∧ t.tir = s.tir ∧ t.tdr = s.tdr ∧
    t.numdev = s.numdev ∧ t.idcodes = s.idcodes ∧ t.pc = s.pc ∧ t.fault = s.fault ∧ t.tck = s.tck ∧
    t.cancel = s.cancel ∧ t.text = s.text ∧ t.running = s.running ∧ t.call = s.call ∧ t.outcome = s.outcome ∧
    t.holder = s.holder ∧ t.reader = s.reader := by
  cases s; cases t
  simp [transportOnly]

theorem transportOnly_refl (s : State) : transportOnly s s := rfl

theorem transportOnly_trans {s t u : State} (h : transportOnly s t) (k : transportOnly t u) :
    transportOnly s u := by
  rw [transportOnly_iff] at h k ⊢
  simp only [h, k, and_self]

/-- `t` is reached from `s` by an operation on the transport that issues the pulses `evs`. -/
structure Drives (s t : State) (evs : List PulseEvent) : Prop where
  only : transportOnly s t
  trace : t.trace = s.trace ++ evs

/-- So that the tracker follows the pulses, and TMS and TDI are left at the levels of the last. -/
structure Moves (s t : State) (evs : List PulseEvent) : Prop extends Drives s t evs where
  tap : t.tap = walk s.tap (evs.map PulseEvent.tms)
  tms : t.tms = (evs.map PulseEvent.tms).getLastD s.tms
  tdi : t.tdi = (evs.map PulseEvent.tdi).getLastD s.tdi

theorem getLastD_append {α : Type} (l k : List α) (d : α) : (l ++ k).getLastD d = k.getLastD (l.getLastD d) := by
  induction l generalizing d with
  | nil => rfl
  | cons x l ih => rw [List.cons_append, List.getLastD_cons, List.getLastD_cons, ih]

@[simp] theorem getLastD_replicate {α : Type} (n : Nat) (d : α) : (List.replicate n d).getLastD d = d := by
  induction n with
  | zero => rfl
  | succ n ih => rw [List.replicate_succ, List.getLastD_cons, ih]

theorem Drives.trans {s t u : State} {e f : List PulseEvent} (h : Drives s t e) (k : Drives t u f) :
    Drives s u (e ++ f) :=
  ⟨transportOnly_trans h.only k.only, by rw [k.trace, h.trace, List.append_assoc]⟩

theorem Moves.trans {s t u : State} {e f : List PulseEvent} (h : Moves s t e) (k : Moves t u f) :
    Moves s u (e ++ f) :=
  ⟨h.toDrives.trans k.toDrives, by rw [k.tap, h.tap, List.map_append, walk_append],
    by rw [k.tms, h.tms, List.map_append, getLastD_append],
    by rw [k.tdi, h.tdi, List.map_append, getLastD_append]⟩

theorem Moves.refl (s : State) : Moves s s [] := ⟨⟨rfl, by simp⟩, rfl, rfl, rfl⟩

theorem Drives.newPulses_eq {s t : State} {e : List PulseEvent} (h : Drives s t e) : newPulses s t = e := by
  rw [newPulses, h.trace, List.drop_left]

theorem Drives.grows {s t : State} {e : List PulseEvent} (h : Drives s t e) : traceGrows s t :=
  ⟨e, h.trace.symm⟩

theorem Moves.follows {s t : State} {e : List PulseEvent} (h : Moves s t e) : trackerFollows s t := by
  rw [trackerFollows, newTms, h.newPulses_eq, h.tap]

theorem Moves.pinsHold {s t : State} {e : List PulseEvent} (h : Moves s t e) : pinsHold s t := by
  rw [Machine.pinsHold, newTms, newTdi, h.newPulses_eq]
  exact ⟨h.tms, h.tdi⟩

/-! ## Pulses -/

theorem setTms_drives (v : Bit) (s : State) : Drives s (setTms v s) [] := ⟨rfl, by simp⟩

theorem setTdi_drives (v : Bit) (s : State) : Drives s (setTdi v s) [] := ⟨rfl, by simp⟩

theorem pulse_drives (c : Params) (s : State) : Drives s (pulse c s) [pulseEvent c s] := ⟨rfl, rfl⟩

/-- `PulseTCK(n)`: `n` events at the levels held, and neither the pins nor the tracker move (42_scan.md R223). -/
theorem pulses_spec (c : Params) (n : Nat) (s : State) : ∃ evs, Drives s (pulses c n s) evs ∧
    evs.map PulseEvent.tms = List.replicate n s.tms ∧ evs.map PulseEvent.tdi = List.replicate n s.tdi ∧
    (pulses c n s).tap = s.tap ∧ (pulses c n s).tms = s.tms ∧ (pulses c n s).tdi = s.tdi := by
  induction n generalizing s with
  | zero => exact ⟨[], ⟨rfl, by simp [pulses]⟩, rfl, rfl, rfl, rfl, rfl⟩
  | succ n ih =>
    obtain ⟨evs, hd, h1, h2, h3, h4, h5⟩ := ih (pulse c s)
    refine ⟨pulseEvent c s :: evs, (pulse_drives c s).trans hd, ?_, ?_, h3, h4, h5⟩
    · rw [List.map_cons, h1, List.replicate_succ]; rfl
    · rw [List.map_cons, h2, List.replicate_succ]; rfl

/-- One pulse the tracker follows (41_tap.md R199). -/
theorem stepTap_moves (c : Params) (t : Bit) (s : State) :
    Moves s (stepTap c t s) [⟨t, s.tdi, tdoNow c (setTms t s)⟩] := ⟨⟨rfl, rfl⟩, rfl, rfl, rfl⟩

@[simp] theorem stepTap_tap (c : Params) (t : Bit) (s : State) : (stepTap c t s).tap = next s.tap t := rfl
@[simp] theorem stepTap_tms (c : Params) (t : Bit) (s : State) : (stepTap c t s).tms = t := rfl
@[simp] theorem stepTap_tdi (c : Params) (t : Bit) (s : State) : (stepTap c t s).tdi = s.tdi := rfl

/-! ## Routes -/

/-- The pulses of a TMS string: TDI is not driven, TMS is left at the last level (41_tap.md R199, 42_scan.md
R224). -/
theorem followRoute_spec (c : Params) (ts : List Bit) (s : State) : ∃ evs, Moves s (followRoute c ts s) evs ∧
    evs.map PulseEvent.tms = ts ∧ evs.map PulseEvent.tdi = List.replicate ts.length s.tdi ∧
    (followRoute c ts s).tms = ts.getLastD s.tms ∧ (followRoute c ts s).tdi = s.tdi := by
  induction ts generalizing s with
  | nil => exact ⟨[], Moves.refl s, rfl, rfl, rfl, rfl⟩
  | cons t ts ih =>
    obtain ⟨evs, hm, h1, h2, h3, h4⟩ := ih (stepTap c t s)
    refine ⟨_, (stepTap_moves c t s).trans hm, ?_, ?_, ?_, h4⟩
    · simp [h1]
    · simp [h2, List.replicate_succ]
    · rw [followRoute, h3, List.getLastD_cons, stepTap_tms]

/-- `goto_state`: the pulses of the shortest route (41_tap.md R200). -/
theorem gotoTap_spec (c : Params) (d : TapState) (s : State) : ∃ evs, Moves s (gotoTap c d s) evs ∧
    evs.map PulseEvent.tms = route s.tap d ∧
    evs.map PulseEvent.tdi = List.replicate (route s.tap d).length s.tdi ∧
    (gotoTap c d s).tms = (route s.tap d).getLastD s.tms ∧ (gotoTap c d s).tdi = s.tdi :=
  followRoute_spec c (route s.tap d) s

@[simp] theorem gotoTap_tap (c : Params) (d : TapState) (s : State) : (gotoTap c d s).tap = d := by
  obtain ⟨evs, hm, h1, -⟩ := gotoTap_spec c d s
  rw [hm.tap, h1, walk_route]

/-- Navigation does not drive TDI (42_scan.md R224). -/
@[simp] theorem gotoTap_tdi (c : Params) (d : TapState) (s : State) : (gotoTap c d s).tdi = s.tdi := by
  obtain ⟨-, -, -, -, -, h⟩ := gotoTap_spec c d s
  exact h

/-- `goto_state` to the present state is no operation (41_tap.md R200). -/
theorem gotoTap_self (c : Params) (s : State) : gotoTap c s.tap s = s := by
  rw [gotoTap, route_self]; rfl

/-- `init_tap()`: five pulses at TMS 1 (41_tap.md R203). -/
theorem initTap_spec (c : Params) (s : State) : ∃ evs, Moves s (initTap c s) evs ∧
    evs.map PulseEvent.tms = List.replicate 5 true ∧ evs.map PulseEvent.tdi = List.replicate 5 s.tdi ∧
    (initTap c s).tap = .testLogicReset ∧ (initTap c s).tms = true ∧ (initTap c s).tdi = s.tdi := by
  obtain ⟨evs, hd, h1, h2, -, h4, h5⟩ := pulses_spec c 5 (setTms true s)
  refine ⟨evs, ⟨⟨?_, hd.trace⟩, ?_, ?_, ?_⟩, h1, h2, rfl, h4, h5⟩
  · have k := transportOnly_trans (setTms_drives true s).only hd.only
    rw [transportOnly_iff] at k ⊢
    exact k
  · rw [h1]; exact (walk_five_ones s.tap).symm
  · rw [h1]; exact h4
  · rw [h2]; exact h5

/-- `goto_state` for each state of a list (44_svf.md R280). -/
theorem gotoEach_moves (c : Params) (ds : List TapState) (s : State) : ∃ evs, Moves s (gotoEach c ds s) evs ∧
    evs.map PulseEvent.tdi = List.replicate evs.length s.tdi ∧ (gotoEach c ds s).tdi = s.tdi := by
  induction ds generalizing s with
  | nil => exact ⟨[], Moves.refl s, rfl, rfl⟩
  | cons d ds ih =>
    obtain ⟨e, hm, h1, h2, -, h4⟩ := gotoTap_spec c d s
    obtain ⟨f, hn, k2, k3⟩ := ih (gotoTap c d s)
    have hl : e.length = (route s.tap d).length := by rw [← h1, List.length_map]
    refine ⟨e ++ f, hm.trans hn, ?_, k3.trans h4⟩
    rw [List.map_append, h2, k2, h4, List.length_append, List.replicate_add, hl]

/-! ## Scans -/

theorem scanTms_succ (n : Nat) (x : Bit) : scanTms (n + 1) x = (x && n == 0) :: scanTms n x := by
  simp only [scanTms, List.range_succ_eq_map, List.map_cons, List.map_map]
  congr 1
  · cases n <;> simp
  · exact List.map_congr_left fun i _ => by simp

/-- The pulses of a scan (42_scan.md R226, R231). -/
theorem shift_spec (c : Params) (x : Bit) (bits : List Bit) (s : State) : ∃ evs, Moves s (shift c x bits s).2 evs ∧
    evs.map PulseEvent.tms = scanTms bits.length x ∧ evs.map PulseEvent.tdi = bits ∧
    evs.map PulseEvent.tdo = (shift c x bits s).1 ∧
    (shift c x bits s).2.tms = (if bits = [] then s.tms else x) ∧
    (shift c x bits s).2.tdi = bits.getLastD s.tdi := by
  induction bits generalizing s with
  | nil => exact ⟨[], Moves.refl s, rfl, rfl, rfl, rfl, rfl⟩
  | cons b rest ih =>
    obtain ⟨evs, hm, h1, h2, h3, h4, h5⟩ := ih (shiftStep c b (x && rest.isEmpty) s)
    have hs : Moves s (shiftStep c b (x && rest.isEmpty) s)
      [⟨x && rest.isEmpty, b, shiftTdo c b (x && rest.isEmpty) s⟩] := ⟨⟨rfl, rfl⟩, rfl, rfl, rfl⟩
    refine ⟨_, hs.trans hm, ?_, ?_, ?_, ?_, ?_⟩
    · have : rest.isEmpty = (rest.length == 0) := by cases rest <;> simp
      simp [h1, scanTms_succ, this]
    · simp [h2]
    · simp only [List.nil_append, List.map_cons, h3, List.cons_append, shift]
    · rw [shift]
      simp only [h4]
      cases rest with
      | nil => simp [shiftStep]
      | cons r rs => simp
    · rw [shift]
      simp only [h5]
      rw [List.getLastD_cons]
      rfl

/-- A scan from a Shift state ends in it, or in the Exit1 state after it (42_scan.md R231). -/
theorem walk_scanTms (a : TapState) (h : a = .shiftDR ∨ a = .shiftIR) (n : Nat) (x : Bit) :
    walk a (scanTms n x) = if x && n != 0 then next a true else a := by
  induction n with
  | zero => simp [scanTms]
  | succ n ih =>
    rw [scanTms_succ, walk_cons]
    cases n with
    | zero => cases x <;> simp [scanTms, next_shift_false a h]
    | succ n =>
      have : (x && n + 1 == 0) = false := by simp
      rw [this, next_shift_false a h, ih]
      simp

theorem scan_fst (c : Params) (send recv : Bitstream) (x : Bit) (s : State) :
    (scan c send recv x s).1 = (shift c x (scanBits send recv) s).1.take recv.length := rfl

theorem scan_snd (c : Params) (send recv : Bitstream) (x : Bit) (s : State) :
    (scan c send recv x s).2 = (shift c x (scanBits send recv) s).2 := rfl

theorem scanBits_length (send recv : Bitstream) :
    (scanBits send recv).length = max send.length recv.length := by
  rw [scanBits, List.length_append, zeros, List.length_replicate]
  omega

@[simp] theorem scan_length (c : Params) (send recv : Bitstream) (x : Bit) (s : State) :
    (scan c send recv x s).1.length = recv.length := by
  obtain ⟨evs, -, -, h2, h3, -⟩ := shift_spec c x (scanBits send recv) s
  rw [scan_fst, ← h3, List.length_take, List.length_map]
  have := congrArg List.length h2
  rw [List.length_map, scanBits_length] at this
  omega

theorem scan_moves (c : Params) (send recv : Bitstream) (x : Bit) (s : State) :
    ∃ evs, Moves s (scan c send recv x s).2 evs ∧
      evs.map PulseEvent.tms = scanTms (max send.length recv.length) x ∧
      evs.map PulseEvent.tdi = scanBits send recv ∧
      (evs.map PulseEvent.tdo).take recv.length = (scan c send recv x s).1 := by
  obtain ⟨evs, hm, h1, h2, h3, -⟩ := shift_spec c x (scanBits send recv) s
  exact ⟨evs, hm, by rw [h1, scanBits_length], h2, by rw [h3]; rfl⟩

theorem irPhase_moves (c : Params) (i : Bitstream) (s : State) : ∃ evs, Moves s (irPhase c i s) evs := by
  unfold irPhase
  split
  · exact ⟨[], Moves.refl s⟩
  · obtain ⟨e, he, -⟩ := gotoTap_spec c .shiftIR s
    obtain ⟨f, hf, -⟩ := scan_moves c i [] true (gotoTap c .shiftIR s)
    obtain ⟨g, hg, -⟩ := gotoTap_spec c .updateIR (scan c i [] true (gotoTap c .shiftIR s)).2
    exact ⟨_, (he.trans hf).trans hg⟩

theorem drPhase_moves (c : Params) (a b : Bitstream) (s : State) : ∃ evs, Moves s (drPhase c a b s).2 evs := by
  unfold drPhase
  split
  · exact ⟨[], Moves.refl s⟩
  · obtain ⟨e, he, -⟩ := gotoTap_spec c .shiftDR s
    obtain ⟨f, hf, -⟩ := scan_moves c a b true (gotoTap c .shiftDR s)
    obtain ⟨g, hg, -⟩ := gotoTap_spec c .updateDR (scan c a b true (gotoTap c .shiftDR s)).2
    exact ⟨_, (he.trans hf).trans hg⟩

@[simp] theorem drPhase_length (c : Params) (a b : Bitstream) (s : State) :
  (drPhase c a b s).1.length = b.length := by
  unfold drPhase
  split
  · rfl
  · exact scan_length c a b true _

theorem loadIrDr_moves (c : Params) (i a b : Bitstream) (s : State) :
    ∃ evs, Moves s (loadIrDr c i a b s).2 evs := by
  obtain ⟨e, he⟩ := irPhase_moves c i s
  obtain ⟨f, hf⟩ := drPhase_moves c a b (irPhase c i s)
  obtain ⟨g, hg, -⟩ := gotoTap_spec c .runTestIdle (drPhase c a b (irPhase c i s)).2
  exact ⟨_, (he.trans hf).trans hg⟩

@[simp] theorem loadIrDr_tap (c : Params) (i a b : Bitstream) (s : State) :
    (loadIrDr c i a b s).2.tap = .runTestIdle := gotoTap_tap ..

@[simp] theorem loadIrDr_length (c : Params) (i a b : Bitstream) (s : State) :
    (loadIrDr c i a b s).1.length = b.length := drPhase_length ..

/-! ## Commands and the chain -/

theorem scanRegister_moves (c : Params) (a e : TapState) (b : Bitstream) (s : State) :
    ∃ evs, Moves s (scanRegister c a e b s) evs := by
  obtain ⟨x, hx, -⟩ := gotoTap_spec c a s
  obtain ⟨y, hy, -⟩ := scan_moves c b [] true (gotoTap c a s)
  obtain ⟨z, hz, -⟩ := gotoTap_spec c e (scan c b [] true (gotoTap c a s)).2
  exact ⟨_, (hx.trans hy).trans hz⟩

/-- `RUNTEST`: its pulses, which the tracker follows (44_svf.md R287). -/
theorem runTest_drives (c : Params) (n : Nat) (s : State) : ∃ evs, Drives s (runTest c n s) evs ∧
    evs.map PulseEvent.tms = List.replicate n (s.tap == .testLogicReset) ∧
    evs.map PulseEvent.tdi = List.replicate n s.tdi ∧
    (runTest c n s).tap = walk s.tap (evs.map PulseEvent.tms) ∧
    (runTest c n s).tms = (s.tap == .testLogicReset) ∧ (runTest c n s).tdi = s.tdi := by
  obtain ⟨evs, hd, h1, h2, h3, h4, h5⟩ := pulses_spec c n (setTms (s.tap == .testLogicReset) s)
  have k := (setTms_drives (s.tap == .testLogicReset) s).trans hd
  refine ⟨evs, ⟨?_, k.trace⟩, h1, h2, ?_, h4, h5⟩
  · have := k.only
    rw [transportOnly_iff] at this ⊢
    exact this
  · rw [runTest, updateTap, setTap_tap, advance_eq_walk, h3, h4, h1]; rfl

theorem countCapture_moves (c : Params) (s : State) : ∃ evs, Moves s (countCapture c s).2 evs := by
  obtain ⟨e, he, -⟩ := initTap_spec c s
  obtain ⟨f, hf⟩ := loadIrDr_moves c (ones c.maxIrBits) (countSend c) (zeros (2 * c.maxChainDevices + 1))
    (initTap c s)
  exact ⟨_, he.trans hf⟩

theorem idcodeCapture_moves (c : Params) (d : Nat) (s : State) : ∃ evs, Moves s (idcodeCapture c d s).2 evs := by
  obtain ⟨e, he, -⟩ := initTap_spec c s
  obtain ⟨f, hf⟩ := loadIrDr_moves c [] (ones (32 * d)) (zeros (32 * d)) (initTap c s)
  exact ⟨_, he.trans hf⟩

/-- The count is an index of the window (43_chain.md R251). -/
theorem firstZero_lt (b : Bitstream) (d : Nat) (h : firstZero b = some d) : d < b.length := by
  induction b generalizing d with
  | nil => cases h
  | cons x b ih =>
    cases x with
    | false => simp [firstZero] at h; subst h; simp
    | true =>
      obtain ⟨e, he, rfl⟩ : ∃ e, firstZero b = some e ∧ e + 1 = d := by simpa [firstZero] using h
      have := ih e he
      simp only [List.length_cons]; omega

theorem countDevices_le (c : Params) (s : State) (d : Nat) (h : (countDevices c s).1 = some d) :
    d ≤ c.maxChainDevices := by
  have h1 := firstZero_lt _ d h
  rw [List.length_drop, countCapture, loadIrDr_length, zeros, List.length_replicate] at h1
  omega

/-! ## The moves and scans in full -/

theorem levelTo_next (a : TapState) (v : Bit) : levelTo a (next a v) = some v := by
  cases a <;> cases v <;> rfl

/-- `goto_next_state` moves by its pulse, or not at all. -/
theorem gotoNext_moves (c : Params) (d : StateOperand) (s : State) : ∃ evs, Moves s (gotoNext c d s).1 evs := by
  rw [gotoNext.eq_def]
  split
  · exact ⟨_, Moves.refl s⟩
  · split
    · exact ⟨_, Moves.refl s⟩
    · exact ⟨_, stepTap_moves ..⟩

@[simp] theorem gotoNext_tdi (c : Params) (d : StateOperand) (s : State) : (gotoNext c d s).1.tdi = s.tdi := by
  rw [gotoNext.eq_def]
  split
  · rfl
  · split <;> rfl

@[simp] theorem goThru_tdi (c : Params) (ds : List StateOperand) (s : State) : (goThru c ds s).1.tdi = s.tdi := by
  induction ds generalizing s with
  | nil => rfl
  | cons d ds ih =>
    have hd := gotoNext_tdi c d s
    rw [goThru]
    cases hg : gotoNext c d s with
    | mk s' f => rw [hg] at hd; cases f with
      | some f => exact hd
      | none => exact (ih s').trans hd

/-- `go_thru_tap_sequence` moves by the pulses it has issued. -/
theorem goThru_moves (c : Params) (ds : List StateOperand) (s : State) : ∃ evs, Moves s (goThru c ds s).1 evs := by
  induction ds generalizing s with
  | nil => exact ⟨_, Moves.refl s⟩
  | cons d ds ih =>
    obtain ⟨e, he⟩ := gotoNext_moves c d s
    rw [goThru]
    cases hg : gotoNext c d s with
    | mk s' f =>
      rw [hg] at he
      cases f with
      | some f => exact ⟨_, he⟩
      | none => obtain ⟨f, hf⟩ := ih s'; exact ⟨_, he.trans hf⟩

/-- A legal sequence is followed pulse by pulse (41_tap.md R201). -/
theorem goThru_statesFrom (c : Params) (ts : List Bit) (rest : List StateOperand) (s : State)
    : goThru c ((statesFrom s.tap ts).map .state ++ rest) s = goThru c rest (followRoute c ts s) := by
  induction ts generalizing s with
  | nil => rfl
  | cons t ts ih =>
    simp only [statesFrom, List.map_cons, List.cons_append, goThru, gotoNext, levelTo_next, followRoute]
    exact ih (stepTap c t s)

/-- `STATE`: the routes one after another (44_svf.md R280). -/
theorem gotoEach_spec (c : Params) (ds : List TapState) (s : State) : ∃ e, Moves s (gotoEach c ds s) e ∧
    e.map PulseEvent.tms = routesTms s.tap ds ∧
    e.map PulseEvent.tdi = List.replicate (routesTms s.tap ds).length s.tdi ∧ (gotoEach c ds s).tdi = s.tdi ∧
    (gotoEach c ds s).tap = ds.getLastD s.tap := by
  induction ds generalizing s with
  | nil => exact ⟨[], Moves.refl s, rfl, rfl, rfl, rfl⟩
  | cons d ds ih =>
    obtain ⟨e, he, h1, h2, -, h4⟩ := gotoTap_spec c d s
    obtain ⟨f, hf, k1, k2, k3, k4⟩ := ih (gotoTap c d s)
    rw [gotoTap_tap] at k1 k2 k4
    refine ⟨_, he.trans hf, ?_, ?_, k3.trans h4, ?_⟩
    · rw [List.map_append, h1, k1]; rfl
    · rw [List.map_append, h2, k2, h4, routesTms, List.length_append, List.replicate_add]
    · rw [gotoEach, k4, List.getLastD_cons]

@[simp] theorem scanTms_length (n : Nat) (x : Bit) : (scanTms n x).length = n := by simp [scanTms]

/-- The bits of a scan: `send`, then 0s (42_scan.md R226). -/
theorem scanBits_eq (send recv : Bitstream) :
    scanBits send recv = (List.range (max send.length recv.length)).map (fun i => send.getD i false) := by
  apply List.ext_getElem?
  intro i
  simp only [scanBits, zeros]
  by_cases hi : i < send.length
  · rw [List.getElem?_append_left hi]
    have : i < max send.length recv.length := by omega
    simp [this, List.getD_eq_getElem?_getD, hi]
  · rw [List.getElem?_append_right (by omega)]
    by_cases h2 : i < max send.length recv.length
    · rw [List.getElem?_replicate_of_lt (by omega)]
      simp only [List.getElem?_map, List.getElem?_range h2, Option.map_some, List.getD_eq_getElem?_getD,
        List.getElem?_eq_none (Nat.le_of_not_lt hi), Option.getD_none]
    · rw [List.getElem?_eq_none (by simp; omega), List.getElem?_eq_none (by simp; omega)]

@[simp] theorem scanBits_nil (i : Bitstream) : scanBits i [] = i := by simp [scanBits, zeros]

@[simp] theorem routeTdi_last (v : Bit) (a d : TapState) : (routeTdi v a d).getLastD v = v := getLastD_replicate ..

theorem irTdi_last (v : Bit) (a : TapState) (i : Bitstream) : (irTdi v a i).getLastD v = i.getLastD v := by
  rw [irTdi]
  split
  case isTrue h => rw [List.length_eq_zero_iff.1 h]
  case isFalse h => rw [getLastD_append, getLastD_append, routeTdi_last, routeTdi_last]

theorem drTdi_last (v : Bit) (a : TapState) (b : List Bit) : (drTdi v a b).getLastD v = b.getLastD v := by
  rw [drTdi]
  split
  case isTrue h => rw [List.length_eq_zero_iff.1 h]
  case isFalse h => rw [getLastD_append, getLastD_append, routeTdi_last, routeTdi_last]

/-- The instruction phase (42_scan.md R239). -/
theorem irPhase_spec (c : Params) (i : Bitstream) (s : State) : ∃ e, Moves s (irPhase c i s) e ∧
    e.map PulseEvent.tms = irTms s.tap i.length ∧ e.map PulseEvent.tdi = irTdi s.tdi s.tap i ∧
    (irPhase c i s).tap = afterIr s.tap i.length := by
  rw [irPhase]
  split
  case isTrue hi =>
    have : i = [] := by simpa using hi
    subst this
    exact ⟨[], Moves.refl s, rfl, rfl, rfl⟩
  case isFalse hi =>
    have hl : i.length ≠ 0 := by simpa using hi
    obtain ⟨e, he, h1, h2, -, h4⟩ := gotoTap_spec c .shiftIR s
    obtain ⟨f, hf, k1, k2, -⟩ := scan_moves c i [] true (gotoTap c .shiftIR s)
    obtain ⟨g, hg, l1, l2, -⟩ := gotoTap_spec c .updateIR (scan c i [] true (gotoTap c .shiftIR s)).2
    have htap : (scan c i [] true (gotoTap c .shiftIR s)).2.tap = .exit1IR := by
      rw [hf.tap, k1, gotoTap_tap, walk_scanTms _ (.inr rfl)]
      simp [hl]; rfl
    have htdi : (scan c i [] true (gotoTap c .shiftIR s)).2.tdi = i.getLastD s.tdi := by
      rw [hf.tdi, k2, scanBits_nil, h4]
    refine ⟨_, (he.trans hf).trans hg, ?_, ?_, ?_⟩
    · simp only [List.map_append, h1, k1, l1, htap, irTms, hl, if_false]; simp
    · simp only [List.map_append, h2, k2, l2, htap, htdi, irTdi, hl, if_false, scanBits_nil, routeTdi]
    · rw [gotoTap_tap, afterIr, if_neg hl]

/-- The data phase (42_scan.md R239). -/
theorem drPhase_spec (c : Params) (a b : Bitstream) (s : State) : ∃ e, Moves s (drPhase c a b s).2 e ∧
    e.map PulseEvent.tms = drTms s.tap (max a.length b.length) ∧
    e.map PulseEvent.tdi = drTdi s.tdi s.tap (scanBits a b) ∧
    (drPhase c a b s).2.tap = afterDr s.tap (max a.length b.length) ∧
    (drPhase c a b s).1 = ((e.map PulseEvent.tdo).drop (route s.tap .shiftDR).length).take b.length := by
  rw [drPhase]
  split
  case isTrue hi =>
    have : a = [] ∧ b = [] := by simpa using hi
    obtain ⟨rfl, rfl⟩ := this
    exact ⟨[], Moves.refl s, rfl, rfl, rfl, by simp⟩
  case isFalse hi =>
    have hl : max a.length b.length ≠ 0 := by
      intro h; apply hi
      have h1 : a.length = 0 := by omega
      have h2 : b.length = 0 := by omega
      simp only [List.length_eq_zero_iff] at h1 h2; simp [h1, h2]
    obtain ⟨e, he, h1, h2, -, h4⟩ := gotoTap_spec c .shiftDR s
    obtain ⟨f, hf, k1, k2, k3⟩ := scan_moves c a b true (gotoTap c .shiftDR s)
    obtain ⟨g, hg, l1, l2, -⟩ := gotoTap_spec c .updateDR (scan c a b true (gotoTap c .shiftDR s)).2
    have htap : (scan c a b true (gotoTap c .shiftDR s)).2.tap = .exit1DR := by
      rw [hf.tap, k1, gotoTap_tap, walk_scanTms _ (.inl rfl)]
      simp [hl]; rfl
    have htdi : (scan c a b true (gotoTap c .shiftDR s)).2.tdi = (scanBits a b).getLastD s.tdi := by
      rw [hf.tdi, k2, h4]
    have hel : e.length = (route s.tap .shiftDR).length := by rw [← h1, List.length_map]
    have hfl : f.length = max a.length b.length := by rw [← scanBits_length, ← k2, List.length_map]
    refine ⟨_, (he.trans hf).trans hg, ?_, ?_, ?_, ?_⟩
    · simp only [List.map_append, h1, k1, l1, htap, drTms, hl, if_false]
    · simp only [List.map_append, h2, k2, l2, htap, htdi, drTdi, scanBits_length, hl, if_false, routeTdi]
    · simp only [gotoTap_tap, afterDr, if_neg hl]
    · rw [← k3, List.map_append, List.map_append, ← hel, List.append_assoc, ← List.length_map (f :=
        PulseEvent.tdo) (as := e), List.drop_left, List.take_append_of_le_length]
      rw [List.length_map, hfl]; omega

/-- `load_ir_then_dr` (42_scan.md R239). -/
theorem loadIrDr_spec (c : Params) (i a b : Bitstream) (s : State) : ∃ e, Moves s (loadIrDr c i a b s).2 e ∧
    e.map PulseEvent.tms = loadTms s.tap i.length (max a.length b.length) ∧
    e.map PulseEvent.tdi = loadTdi s.tdi s.tap i (scanBits a b) ∧
    (loadIrDr c i a b s).1 = ((e.map PulseEvent.tdo).drop ((irTms s.tap i.length).length +
      (route (afterIr s.tap i.length) .shiftDR).length)).take b.length := by
  obtain ⟨e, he, h1, h2, h3⟩ := irPhase_spec c i s
  obtain ⟨f, hf, k1, k2, k3, k4⟩ := drPhase_spec c a b (irPhase c i s)
  obtain ⟨g, hg, l1, l2, -⟩ := gotoTap_spec c .runTestIdle (drPhase c a b (irPhase c i s)).2
  have htdi : (irPhase c i s).tdi = i.getLastD s.tdi := by rw [he.tdi, h2, irTdi_last]
  have htdi' : (drPhase c a b (irPhase c i s)).2.tdi = (scanBits a b).getLastD (i.getLastD s.tdi) := by
    rw [hf.tdi, k2, htdi, drTdi_last]
  have hel : e.length = (irTms s.tap i.length).length := by rw [← h1, List.length_map]
  have hfl : f.length = (drTms (afterIr s.tap i.length) (max a.length b.length)).length := by
    rw [← h3, ← k1, List.length_map]
  rw [h3] at k1 k2 k3 k4
  refine ⟨_, (he.trans hf).trans hg, ?_, ?_, ?_⟩
  · simp only [List.map_append, h1, k1, l1, k3, loadTms]
  · simp only [List.map_append, h2, k2, l2, k3, htdi, htdi', loadTdi, scanBits_length, routeTdi]
  · show (drPhase c a b (irPhase c i s)).1 = _
    rw [k4, List.map_append, List.map_append, List.append_assoc, ← List.drop_drop, ← hel, ← List.length_map (f :=
      PulseEvent.tdo) (as := e), List.drop_left]
    by_cases hn : max a.length b.length = 0
    · have : b.length = 0 := by omega
      rw [this]; simp
    · have hlen : (route (afterIr s.tap i.length) .shiftDR).length + max a.length b.length ≤
        (f.map PulseEvent.tdo).length := by
        rw [List.length_map, hfl, drTms, if_neg hn]; simp [scanTms_length]
      rw [List.drop_append_of_le_length (by omega), List.take_append_of_le_length]
      rw [List.length_drop]; omega

/-- `load_ir_then_dr` leaves TDI at its last data bit, else its last instruction bit, else where it was. -/
theorem loadTdi_last (v : Bit) (a : TapState) (i : Bitstream) (b : List Bit) :
    (loadTdi v a i b).getLastD v = b.getLastD (i.getLastD v) := by
  rw [loadTdi, getLastD_append, getLastD_append, irTdi_last, drTdi_last, routeTdi_last]

/-- Its last pulse is at TMS 0 where it shifts data (42_scan.md R239). -/
theorem loadTms_last (v : Bit) (a : TapState) (i n : Nat) (h : n ≠ 0) : (loadTms a i n).getLastD v = false := by
  rw [loadTms, getLastD_append, afterDr, if_neg h]; rfl

/-- A register scan of a command (44_svf.md R285, R286). -/
theorem scanRegister_spec (c : Params) (a x e : TapState) (ha : a = .shiftDR ∧ x = .exit1DR ∨ a = .shiftIR ∧
    x = .exit1IR) (b : Bitstream) (s : State) :
    ∃ ev, Moves s (scanRegister c a e b s) ev ∧ ev.map PulseEvent.tms = scanRegisterTms s.tap a x e b.length ∧
      ev.map PulseEvent.tdi = scanRegisterTdi s.tdi s.tap a x e b ∧ (scanRegister c a e b s).tap = e := by
  obtain ⟨f, hf, h1, h2, -, h4⟩ := gotoTap_spec c a s
  obtain ⟨g, hg, k1, k2, k3⟩ := scan_moves c b [] true (gotoTap c a s)
  obtain ⟨k, hk, l1, l2, -⟩ := gotoTap_spec c e (scan c b [] true (gotoTap c a s)).2
  have ha' : a = .shiftDR ∨ a = .shiftIR := by rcases ha with ⟨h, -⟩ | ⟨h, -⟩ <;> simp [h]
  have hx : next a true = x := by rcases ha with ⟨rfl, rfl⟩ | ⟨rfl, rfl⟩ <;> rfl
  have htap : (scan c b [] true (gotoTap c a s)).2.tap = if b.length = 0 then a else x := by
    rw [hg.tap, k1, gotoTap_tap, walk_scanTms _ ha', hx]
    by_cases hb : b.length = 0 <;> simp [hb]
  have htdi : (scan c b [] true (gotoTap c a s)).2.tdi = b.getLastD s.tdi := by
    rw [hg.tdi, k2, scanBits_nil, h4]
  refine ⟨_, (hf.trans hg).trans hk, ?_, ?_, gotoTap_tap ..⟩
  · simp only [List.map_append, h1, k1, l1, htap, scanRegisterTms]; simp
  · simp only [List.map_append, h2, k2, l2, htap, htdi, scanRegisterTdi, scanBits_nil, routeTdi]

/-- A stable state is held (41_tap.md R196). -/
theorem walk_stable (a : TapState) (n : Nat) (h : stable a = true) :
    walk a (List.replicate n (a == .testLogicReset)) = a := by
  have : next a (a == .testLogicReset) = a := by revert h; cases a <;> decide
  induction n with
  | zero => rfl
  | succ n ih => rw [List.replicate_succ, walk_cons, this, ih]

end Sys2Proof.Machine
end

