-- ==== Sys2Proof/Laws/Chain.lean ====
section
/-!
SUPPORT. What the two captures of the device chain do, said once: their pulses, the bits they send, and which TDO
bits they keep (43_chain.md R251, R253).
-/
namespace Sys2Proof.Machine

theorem initTap_pins (c : Params) (s : State) : (initTap c s).tms = true ∧ (initTap c s).tdi = s.tdi := by
  simp [initTap, pulses]

/-- The routes of the two captures (41_tap.md R193). -/
theorem chain_routes :
    route .testLogicReset .shiftIR = [false, true, true, false, false] ∧ route .exit1IR .updateIR = [true] ∧
    route .updateIR .shiftDR = [true, false, false] ∧ route .testLogicReset .shiftDR = [false, true, false, false] ∧
    route .exit1DR .updateDR = [true] ∧ route .updateDR .runTestIdle = [false] := by decide

/-- What a count keeps and sends. -/
theorem countCapture_spec (c : Params) (s : State) : ∃ e, Moves s (countCapture c s).2 e ∧
    e.map PulseEvent.tms =
      List.replicate 5 true ++ loadTms .testLogicReset c.maxIrBits (2 * c.maxChainDevices + 1) ∧
    e.length = c.maxIrBits + 2 * c.maxChainDevices + 17 ∧
    e.map PulseEvent.tdi =
      List.replicate 5 s.tdi ++ loadTdi s.tdi .testLogicReset (ones c.maxIrBits) (countSend c) ∧
    (countCapture c s).1 =
      ((e.map PulseEvent.tdo).drop (c.maxIrBits + 14)).take (2 * c.maxChainDevices + 1) ∧
    (countCapture c s).2.tap = .runTestIdle := by
  obtain ⟨e, he, h1, h2, h3, -, h5⟩ := initTap_spec c s
  obtain ⟨f, hf, k1, k2, k4⟩ :=
    loadIrDr_spec c (ones c.maxIrBits) (countSend c) (zeros (2 * c.maxChainDevices + 1)) (initTap c s)
  obtain ⟨r1, r2, r3, -, r5, r6⟩ := chain_routes
  have hm : 0 < c.maxIrBits := Nat.succ_pos _
  have hl : (countSend c).length = 2 * c.maxChainDevices + 1 := by simp [countSend]; omega
  have hmax : max (countSend c).length (zeros (2 * c.maxChainDevices + 1)).length = 2 * c.maxChainDevices + 1 := by
    simp [hl]
  have hat : (irTms (initTap c s).tap (ones c.maxIrBits).length).length +
      (route (afterIr (initTap c s).tap (ones c.maxIrBits).length) .shiftDR).length = c.maxIrBits + 9 := by
    rw [h3, ones_length]
    simp [irTms, afterIr, hm.ne', r1, r2, r3]
  have hel : e.length = 5 := by rw [← List.length_map (f := PulseEvent.tms), h1]; rfl
  have hb : scanBits (countSend c) (zeros (2 * c.maxChainDevices + 1)) = countSend c := by
    simp [scanBits, hl, zeros]
  rw [hmax] at k1
  rw [hat] at k4
  rw [h3, ones_length] at k1
  rw [h3, h5, hb] at k2
  have hfl : f.length = c.maxIrBits + (2 * c.maxChainDevices + 1) + 11 := by
    rw [← List.length_map (f := PulseEvent.tms), k1]
    simp [loadTms, irTms, drTms, afterIr, afterDr, hm.ne', r1, r2, r3, r5, r6]
    omega
  refine ⟨e ++ f, he.trans hf, ?_, ?_, ?_, ?_, loadIrDr_tap ..⟩
  · rw [List.map_append, h1, k1]
  · rw [List.length_append, hel, hfl]; omega
  · rw [List.map_append, h2, k2]
  · rw [List.map_append, show c.maxIrBits + 14 = 5 + (c.maxIrBits + 9) by omega, ← List.drop_drop, ← hel,
      ← List.length_map (f := PulseEvent.tdo) (as := e), List.drop_left]
    rw [countCapture, k4, zeros_length]

/-- What an IDCODE scan keeps and sends. -/
theorem idcodeCapture_spec (c : Params) (d : Nat) (hd : 0 < d) (s : State) : ∃ e,
    Moves s (idcodeCapture c d s).2 e ∧
    e.map PulseEvent.tms = List.replicate 5 true ++ loadTms .testLogicReset 0 (32 * d) ∧
    e.length = 32 * d + 11 ∧
    e.map PulseEvent.tdi = List.replicate 5 s.tdi ++ loadTdi s.tdi .testLogicReset [] (ones (32 * d)) ∧
    (idcodeCapture c d s).1 = ((e.map PulseEvent.tdo).drop 9).take (32 * d) ∧
    (idcodeCapture c d s).2.tap = .runTestIdle := by
  obtain ⟨e, he, h1, h2, h3, -, h5⟩ := initTap_spec c s
  obtain ⟨f, hf, k1, k2, k4⟩ := loadIrDr_spec c [] (ones (32 * d)) (zeros (32 * d)) (initTap c s)
  obtain ⟨-, -, -, r4, r5, r6⟩ := chain_routes
  have hmax : max (ones (32 * d)).length (zeros (32 * d)).length = 32 * d := by simp
  have hat : (irTms (initTap c s).tap ([] : List Bit).length).length +
      (route (afterIr (initTap c s).tap ([] : List Bit).length) .shiftDR).length = 4 := by
    rw [h3]; rfl
  have hel : e.length = 5 := by rw [← List.length_map (f := PulseEvent.tms), h1]; rfl
  have hb : scanBits (ones (32 * d)) (zeros (32 * d)) = ones (32 * d) := by simp [scanBits, zeros, ones]
  rw [hmax] at k1
  rw [hat] at k4
  rw [h3] at k1
  rw [h3, h5, hb] at k2
  have hfl : f.length = 32 * d + 6 := by
    rw [← List.length_map (f := PulseEvent.tms), k1]
    simp [loadTms, irTms, drTms, afterIr, afterDr, hd.ne', r4, r5, r6]
  refine ⟨e ++ f, he.trans hf, ?_, ?_, ?_, ?_, loadIrDr_tap ..⟩
  · rw [List.map_append, h1, k1]; rfl
  · rw [List.length_append, hel, hfl]; omega
  · rw [List.map_append, h2, k2]
  · rw [List.map_append, show 9 = 5 + 4 by omega, ← List.drop_drop, ← hel,
      ← List.length_map (f := PulseEvent.tdo) (as := e), List.drop_left]
    rw [idcodeCapture, k4, zeros_length]

/-- What the count leaves in `x[NUMDEV]`. -/
theorem numdev_countDevices (c : Params) (s : State) : (countDevices c s).2.numdev =
    match (countDevices c s).1 with | some d => Int.ofNat d | none => -1 := rfl

end Sys2Proof.Machine
end

