-- ==== Sys2Proof/Laws/PerInstr.lean ====
section
/-!
SUPPORT. For every instruction: the tokens the encoder writes for it are decoded to it. The family is about the
instruction as it is written; the obligation about bytes also splits them into tokens again.
-/
namespace Sys2Proof.Laws.TokensRoundTrip

-- The evaluations below are checked one after another, so that the whole package compiles in little memory.
set_option Elab.async false

/-- A well-formed instruction is decoded from its own tokens. -/
def Statement (i : Instr) : Prop :=
  i.wellFormed = true → decodeTokens .ignore i.isSvf (encodeTokens i) = some i

/-- A call is decoded from its tokens where its operands are. -/
theorem of_operands (k : OpName) (ts : List Token) (i : Instr) (h : decodeOpOperands k ts = some i) :
    decodeTokens .ignore false (opTokens k ts) = some i := by
  simp [decodeTokens, opTokens, decodeCallTokens, opName_ofToken_text, h, Except.toOption]

/-- A command is decoded from its tokens where its operands are. -/
theorem of_svfOperands (k : SvfKeyword) (ts : List Token) (i : Instr)
    (h : decodeSvfOperands .ignore ts k = .ok i) : decodeTokens .ignore true (svfTokens k ts) = some i := by
  simp [decodeTokens, svfTokens, decodeSvfTokens, svfKeyword_ofToken_text, h, Except.toOption]

/-- Operands that are not read are kept as they are. -/
theorem ignored (mk : List Token → Instr) (ts : List Token) (h : ts.all Token.wellFormed = true) :
    decodeIgnored mk ts = .ok (mk ts) := by
  rw [decodeIgnored, any_unclosed_of_wellFormed ts h]; rfl

/-- A header or trailer command. -/
theorem context (mk : Nat → Option (List Nibble) → OptFields → Instr) (n : Nat) (t : Option (List Nibble))
    (o : OptFields) (h : scanFieldsWellFormed n o = true) :
    decodeContext .ignore mk (natToken n :: fieldTokens t o) = .ok (mk n t o) := by
  rw [decodeContext, decodeNumberAndFields_tokens n t o h]; rfl

/-- A scan command. -/
theorem scanCommand (mk : Nat → List Nibble → OptFields → Instr) (n : Nat) (t : List Nibble) (o : OptFields)
    (h : scanFieldsWellFormed n o = true) :
    decodeScan .ignore mk (natToken n :: fieldTokens (some t) o) = .ok (mk n t o) := by
  simp [decodeScan, decodeNumberAndFields_tokens n (some t) o h]

theorem new (n : Nat) : Statement (.new n) := fun _ => of_operands .new _ _ (by
  simp [decodeOpOperands, nat_natToken])

theorem length (b : Bitstream) : Statement (.length b) := fun _ => of_operands .length _ _ (by
  simp [decodeOpOperands, bitstream_bitstreamToken])

theorem resize (b : Bitstream) (m : Nat) : Statement (.resize b m) := fun _ => of_operands .resize _ _ (by
  simp [decodeOpOperands, nat_natToken, bitstream_bitstreamToken])

theorem get (b : Bitstream) (i : Nat) : Statement (.get b i) := fun _ => of_operands .get _ _ (by
  simp [decodeOpOperands, nat_natToken, bitstream_bitstreamToken])

theorem setBit (b : Bitstream) (i : Nat) (v : Bit) : Statement (.setBit b i v) :=
    fun _ => of_operands .setBit _ _ (by
  simp [decodeOpOperands, nat_natToken, bit_bitToken, bitstream_bitstreamToken])

theorem setBits (b : Bitstream) (i : Nat) (seq : List Bit) : Statement (.setBits b i seq) :=
    fun _ => of_operands .setBits _ _ (by
  simp [decodeOpOperands, nat_natToken, bitstream_bitstreamToken, each_map bit? bitToken bit_bitToken])

theorem xor (a b : Bitstream) : Statement (.xor a b) := fun _ => of_operands .xor _ _ (by
  simp [decodeOpOperands, bitstream_bitstreamToken])

theorem concat (a b : Bitstream) : Statement (.concat a b) := fun _ => of_operands .concat _ _ (by
  simp [decodeOpOperands, bitstream_bitstreamToken])

theorem shiftRight (b : Bitstream) (k : Nat) : Statement (.shiftRight b k) :=
    fun _ => of_operands .shiftRight _ _ (by
  simp [decodeOpOperands, nat_natToken, bitstream_bitstreamToken])

theorem reverse (b : Bitstream) : Statement (.reverse b) := fun _ => of_operands .reverse _ _ (by
  simp [decodeOpOperands, bitstream_bitstreamToken])

theorem equal (a b : Bitstream) : Statement (.equal a b) := fun _ => of_operands .equal _ _ (by
  simp [decodeOpOperands, bitstream_bitstreamToken])

theorem toHexString (b : Bitstream) : Statement (.toHexString b) := fun _ => of_operands .toHexString _ _ (by
  simp [decodeOpOperands, bitstream_bitstreamToken])

theorem fromHexString (n : Nat) (s : List Byte) : Statement (.fromHexString n s) :=
    fun _ => of_operands .fromHexString _ _ (by
  simp [decodeOpOperands, nat_natToken, bytes_bytesToken])

theorem toCharString (b : Bitstream) : Statement (.toCharString b) := fun _ => of_operands .toCharString _ _ (by
  simp [decodeOpOperands, bitstream_bitstreamToken])

theorem fromCharString (n : Nat) (s : List Byte) : Statement (.fromCharString n s) :=
    fun _ => of_operands .fromCharString _ _ (by
  simp [decodeOpOperands, nat_natToken, bytes_bytesToken])

theorem toWordString (b : Bitstream) : Statement (.toWordString b) := fun _ => of_operands .toWordString _ _ (by
  simp [decodeOpOperands, bitstream_bitstreamToken])

theorem fromWordString (n : Nat) (ws : List Word) : Statement (.fromWordString n ws) :=
    fun _ => of_operands .fromWordString _ _ (by
  simp [decodeOpOperands, nat_natToken, each_map word? (fun w => natToken w.toNat) word_natToken])

theorem fromHexStream (n : Nat) (s : List Byte) (r : Bit) : Statement (.fromHexStream n s r) :=
    fun _ => of_operands .fromHexStream _ _ (by
  simp [decodeOpOperands, nat_natToken, bit_bitToken, bytes_bytesToken])

theorem fromCharStream (n : Nat) (s : List Byte) (r : Bit) : Statement (.fromCharStream n s r) :=
    fun _ => of_operands .fromCharStream _ _ (by
  simp [decodeOpOperands, nat_natToken, bit_bitToken, bytes_bytesToken])

theorem toString (b : Bitstream) : Statement (.toString b) := fun _ => of_operands .toString _ _ (by
  simp [decodeOpOperands, bitstream_bitstreamToken])

theorem fromString (s : List Byte) : Statement (.fromString s) := fun _ => of_operands .fromString _ _ (by
  simp [decodeOpOperands, bytes_bytesToken])

theorem nextState (s : StateOperand) (t : Bit) : Statement (.nextState s t) :=
    fun _ => of_operands .nextState _ _ (by
  simp [decodeOpOperands, bit_bitToken, stateOperand_stateToken])

theorem pathOf (a d : StateOperand) : Statement (.pathOf a d) := fun _ => of_operands .pathOf _ _ (by
  simp [decodeOpOperands, stateOperand_stateToken])

theorem gotoNextState (s : StateOperand) : Statement (.gotoNextState s) :=
    fun _ => of_operands .gotoNextState _ _ (by
  simp [decodeOpOperands, stateOperand_stateToken])

theorem gotoState (s : StateOperand) : Statement (.gotoState s) := fun _ => of_operands .gotoState _ _ (by
  simp [decodeOpOperands, stateOperand_stateToken])

theorem goThruTapSequence (seq : List StateOperand) : Statement (.goThruTapSequence seq) :=
    fun _ => of_operands .goThruTapSequence _ _ (by
  simp [decodeOpOperands, each_map stateOperand? stateToken stateOperand_stateToken])

theorem updateState (n : Nat) : Statement (.updateState n) := fun _ => of_operands .updateState _ _ (by
  simp [decodeOpOperands, nat_natToken])

theorem initTap : Statement (.initTap) := fun _ => of_operands .initTap _ _ (by
  rfl)

theorem pathsOk : Statement (.pathsOk) := fun _ => of_operands .pathsOk _ _ (by
  rfl)

theorem setTck (v : Bit) : Statement (.setTck v) := fun _ => of_operands .setTck _ _ (by
  simp [decodeOpOperands, bit_bitToken])

theorem getTck : Statement (.getTck) := fun _ => of_operands .getTck _ _ (by
  rfl)

theorem pulseTck (n : Nat) : Statement (.pulseTck n) := fun h => of_operands .pulseTck _ _ (by
  have h' : n < u32Bound := by simpa [Instr.wellFormed] using h
  simp [decodeOpOperands, nat_natToken, h'])

theorem setTms (v : Bit) : Statement (.setTms v) := fun _ => of_operands .setTms _ _ (by
  simp [decodeOpOperands, bit_bitToken])

theorem getTms : Statement (.getTms) := fun _ => of_operands .getTms _ _ (by
  rfl)

theorem setTdi (v : Bit) : Statement (.setTdi v) := fun _ => of_operands .setTdi _ _ (by
  simp [decodeOpOperands, bit_bitToken])

theorem getTdi : Statement (.getTdi) := fun _ => of_operands .getTdi _ _ (by
  rfl)

theorem getTdo : Statement (.getTdo) := fun _ => of_operands .getTdo _ _ (by
  rfl)

theorem sendRecvBitstream (a b : Bitstream) (e : Bit) : Statement (.sendRecvBitstream a b e) :=
    fun _ => of_operands .sendRecvBitstream _ _ (by
  simp [decodeOpOperands, bit_bitToken, bitstream_bitstreamToken])

theorem loadIrThenDr (i a b : Bitstream) : Statement (.loadIrThenDr i a b) :=
    fun _ => of_operands .loadIrThenDr _ _ (by
  simp [decodeOpOperands, bitstream_bitstreamToken])

theorem getNumberOfDevices : Statement (.getNumberOfDevices) := fun _ => of_operands .getNumberOfDevices _ _ (by
  rfl)

theorem getIdcodes : Statement (.getIdcodes) := fun _ => of_operands .getIdcodes _ _ (by
  rfl)

theorem svfRun (s : List Byte) : Statement (.svfRun s) := fun _ => of_operands .svfRun _ _ (by
  simp [decodeOpOperands, bytes_bytesToken])

theorem trst (ts : List Token) : Statement (.trst ts) := fun h => of_svfOperands .trst _ _ (ignored .trst ts h)

theorem pio (ts : List Token) : Statement (.pio ts) := fun h => of_svfOperands .pio _ _ (ignored .pio ts h)

theorem piomap (ts : List Token) : Statement (.piomap ts) :=
    fun h => of_svfOperands .piomap _ _ (ignored .piomap ts h)

theorem frequency (ts : List Token) : Statement (.frequency ts) :=
    fun h => of_svfOperands .frequency _ _ (ignored .frequency ts h)

theorem endir (s : TapState) : Statement (.endir s) :=
    fun _ => of_svfOperands .endir _ _ (by simp [decodeSvfOperands, decodeOneState, stateName_stateNameToken,
    decodeEnd])

theorem enddr (s : TapState) : Statement (.enddr s) :=
    fun _ => of_svfOperands .enddr _ _ (by simp [decodeSvfOperands, decodeOneState, stateName_stateNameToken,
    decodeEnd])

theorem state (s : TapState) (ss : List TapState) : Statement (.state s ss) :=
    fun _ => of_svfOperands .state _ _ (by
  rw [decodeSvfOperands, decodeStateList, decodeStates_tokens (s :: ss)])

theorem hir (n : Nat) (t : Option (List Nibble)) (o : OptFields) : Statement (.hir n t o) :=
    fun h => of_svfOperands .hir _ _ (context .hir n t o h)

theorem hdr (n : Nat) (t : Option (List Nibble)) (o : OptFields) : Statement (.hdr n t o) :=
    fun h => of_svfOperands .hdr _ _ (context .hdr n t o h)

theorem tir (n : Nat) (t : Option (List Nibble)) (o : OptFields) : Statement (.tir n t o) :=
    fun h => of_svfOperands .tir _ _ (context .tir n t o h)

theorem tdr (n : Nat) (t : Option (List Nibble)) (o : OptFields) : Statement (.tdr n t o) :=
    fun h => of_svfOperands .tdr _ _ (context .tdr n t o h)

theorem sir (n : Nat) (t : List Nibble) (o : OptFields) : Statement (.sir n t o) :=
    fun h => of_svfOperands .sir _ _ (scanCommand .sir n t o h)

theorem sdr (n : Nat) (t : List Nibble) (o : OptFields) : Statement (.sdr n t o) :=
    fun h => of_svfOperands .sdr _ _ (scanCommand .sdr n t o h)

theorem runtest (n : Nat) : Statement (.runtest n) := fun h => of_svfOperands .runtest _ _ (by
  have h' : n ≤ numericFieldMax := by simpa [Instr.wellFormed] using h
  simp [decodeSvfOperands, decodeRuntest, svfNumber_natToken n h', decodeEnd])

end Sys2Proof.Laws.TokensRoundTrip
end

