-- ==== Sys2Proof/Laws/Text.lean ====
section
/-!
SUPPORT. The text of an instruction read back as bytes: comments, the end of a command and tokens (30_encoding.md
R95 to R98), and that the encoder writes what these rules leave whole.
-/
namespace Sys2Proof

-- The evaluations below are checked one after another, so that the whole package compiles in little memory.
set_option Elab.async false

/-! ## Lexing -/

theorem lexFrom_word (w acc rest : List Byte) (h : w.all wordByte = true) :
    lexFrom false acc (w ++ rest) = lexFrom false (w.reverse ++ acc) rest := by
  induction w generalizing acc with
  | nil => rfl
  | cons b w ih =>
    obtain ⟨hb, hw⟩ : wordByte b = true ∧ w.all wordByte = true := by simpa using h
    simp only [wordByte, Bool.and_eq_true, Bool.not_eq_true', bne_iff_ne] at hb
    rw [List.cons_append, lexFrom]
    simp only [Bool.false_eq_true, if_false, hb.1.1.2, hb.1.1.1, ih _ hw]
    simp

theorem lexFrom_paren (w acc rest : List Byte) (h : w.all parenByte = true) :
    lexFrom true acc (w ++ closeParen :: rest) = .paren (acc.reverse ++ w) :: lexFrom false [] rest := by
  induction w generalizing acc with
  | nil => simp [lexFrom]
  | cons b w ih =>
    obtain ⟨hb, hw⟩ : parenByte b = true ∧ w.all parenByte = true := by simpa using h
    simp only [parenByte, Bool.and_eq_true, bne_iff_ne] at hb
    rw [List.cons_append, lexFrom]
    simp only [if_true, hb.1.1, if_false, ih _ hw]
    simp

/-- Well-formed tokens written with spaces are the tokens read back (30_encoding.md R97, R98). -/
theorem lex_renderTokens (ts : List Token) (h : ts.all Token.wellFormed = true) : lex (renderTokens ts) = ts := by
  induction ts with
  | nil => rfl
  | cons t ts ih =>
    obtain ⟨ht, hts⟩ : t.wellFormed = true ∧ ts.all Token.wellFormed = true := by simpa using h
    have hsp : ∀ acc, lexFrom false acc (0x20#8 :: renderTokens ts) = flushWord acc ++ ts := by
      intro acc
      rw [lexFrom]
      have := ih hts
      rw [lex] at this
      rw [this, if_neg (by simp), if_neg (by decide), if_pos (by decide)]
    rw [renderTokens, List.flatMap_cons, ← renderTokens, lex]
    cases t with
    | word w =>
      simp only [Token.wellFormed, Bool.and_eq_true] at ht
      rw [Token.render, List.append_assoc, lexFrom_word _ _ _ ht.1.2, List.singleton_append, hsp]
      cases w <;> simp_all [flushWord]
    | paren w =>
      simp only [Token.wellFormed, Bool.and_eq_true] at ht
      rw [Token.render]
      simp only [List.cons_append, List.append_assoc, List.nil_append]
      rw [lexFrom, if_neg (by simp), if_pos rfl, lexFrom_paren _ _ _ ht.1, hsp]
      simp [flushWord]
    | unclosed w => cases ht

/-! ## Comments and the end of a command -/

theorem hasDoubleSlash_append (a b : List Byte) (h : b.head? ≠ some slash) :
    hasDoubleSlash (a ++ b) = (hasDoubleSlash a || hasDoubleSlash b) := by
  induction a with
  | nil => simp [hasDoubleSlash]
  | cons x a ih =>
    rw [List.cons_append, hasDoubleSlash, ih, hasDoubleSlash, Bool.or_assoc]
    congr 2
    cases a with
    | nil => simp [h]
    | cons y a => rfl

/-- A text in which no comment starts is its own stripped text (30_encoding.md R95). -/
theorem stripComments_of_none (l : List Byte) (hb : bang ∉ l) (hs : hasDoubleSlash l = false) :
    stripComments l = l := by
  rw [stripComments]
  induction l with
  | nil => rfl
  | cons b l ih =>
    simp only [List.mem_cons, not_or] at hb
    rw [hasDoubleSlash, Bool.or_eq_false_iff] at hs
    have := ih hb.2 hs.2
    rw [stripFrom, this]
    simp only [Ne.symm hb.1, hs.1]
    simp

theorem splitCommand_append (a b : List Byte) (h : semicolon ∉ a) :
    splitCommand (a ++ semicolon :: b) = some (a, b) := by
  induction a with
  | nil => simp [splitCommand]
  | cons x a ih =>
    simp only [List.mem_cons, not_or] at h
    rw [List.cons_append, splitCommand, if_neg (Ne.symm h.1), ih h.2]
    rfl

theorem splitCommand_eq_none (a : List Byte) (h : semicolon ∉ a) : splitCommand a = none := by
  induction a with
  | nil => rfl
  | cons x a ih =>
    simp only [List.mem_cons, not_or] at h
    rw [splitCommand, if_neg (Ne.symm h.1), ih h.2]
    rfl

theorem splitCommand_eq_some (l a b : List Byte) (h : splitCommand l = some (a, b)) :
    l = a ++ semicolon :: b ∧ semicolon ∉ a := by
  induction l generalizing a b with
  | nil => cases h
  | cons x l ih =>
    rw [splitCommand] at h
    split at h
    case isTrue hx => cases h; exact ⟨by rw [hx]; rfl, by simp⟩
    case isFalse hx =>
      obtain ⟨⟨a', b'⟩, hp, he⟩ := Option.map_eq_some_iff.1 h
      cases he
      obtain ⟨rfl, hn⟩ := ih _ _ hp
      exact ⟨rfl, by simp [hn, Ne.symm hx]⟩

theorem render_clean (t : Token) (h : t.wellFormed = true) :
    bang ∉ t.render ∧ semicolon ∉ t.render ∧ hasDoubleSlash t.render = false := by
  cases t with
  | word w =>
    simp only [Token.wellFormed, Bool.and_eq_true, List.all_eq_true] at h
    refine ⟨fun hb => ?_, fun hb => ?_, by simpa [Token.render] using h.2⟩
    · exact absurd (h.1.2 _ hb) (by decide)
    · exact absurd (h.1.2 _ hb) (by decide)
  | paren w =>
    simp only [Token.wellFormed, Bool.and_eq_true, List.all_eq_true] at h
    refine ⟨fun hb => ?_, fun hb => ?_, ?_⟩
    · simp only [Token.render, List.cons_append, List.mem_cons, List.mem_append] at hb
      rcases hb with hb | hb | hb | hb
      · exact absurd hb (by decide)
      · exact absurd (h.1 _ hb) (by decide)
      · exact absurd hb (by decide)
      · cases hb
    · simp only [Token.render, List.cons_append, List.mem_cons, List.mem_append] at hb
      rcases hb with hb | hb | hb | hb
      · exact absurd hb (by decide)
      · exact absurd (h.1 _ hb) (by decide)
      · exact absurd hb (by decide)
      · cases hb
    · rw [Token.render, List.cons_append, hasDoubleSlash, hasDoubleSlash_append _ _ (by decide)]
      have : hasDoubleSlash w = false := by simpa using h.2
      rw [this]
      rfl
  | unclosed w => cases h

theorem renderTokens_clean (ts : List Token) (h : ts.all Token.wellFormed = true) :
    bang ∉ renderTokens ts ∧ semicolon ∉ renderTokens ts ∧ hasDoubleSlash (renderTokens ts) = false := by
  induction ts with
  | nil => decide
  | cons t ts ih =>
    obtain ⟨ht, hts⟩ : t.wellFormed = true ∧ ts.all Token.wellFormed = true := by simpa using h
    obtain ⟨h1, h2, h3⟩ := ih hts
    obtain ⟨k1, k2, k3⟩ := render_clean t ht
    have hr : renderTokens (t :: ts) = t.render ++ 0x20#8 :: renderTokens ts := by
      simp [renderTokens]
    rw [hr]
    refine ⟨?_, ?_, ?_⟩
    · simp only [List.mem_append, List.mem_cons, k1, h1, or_false, false_or]; decide
    · simp only [List.mem_append, List.mem_cons, k2, h2, or_false, false_or]; decide
    · rw [hasDoubleSlash_append _ _ (by simp; decide), k3, hasDoubleSlash, h3]; rfl

/-! ## The tokens the encoder writes -/

theorem decimalAux_bytes (fuel n : Nat) (acc : List Byte) (h : ∀ b ∈ acc, 0x30 ≤ b.toNat ∧ b.toNat ≤ 0x39) :
    ∀ b ∈ decimalAux fuel n acc, 0x30 ≤ b.toNat ∧ b.toNat ≤ 0x39 := by
  induction fuel generalizing n acc with
  | zero => exact h
  | succ fuel ih =>
    have h' : ∀ b ∈ BitVec.ofNat 8 (n % 10 + 0x30) :: acc, 0x30 ≤ b.toNat ∧ b.toNat ≤ 0x39 := by
      intro b hb
      rcases List.mem_cons.1 hb with rfl | hb
      · rw [BitVec.toNat_ofNat]; omega
      · exact h b hb
    rw [decimalAux]
    split
    · exact h'
    · exact ih _ _ h'

/-- A byte that is none of the bytes with a meaning of their own. -/
def plainByte (b : Byte) : Bool := wordByte b && parenByte b && b != slash

theorem hasDoubleSlash_plain (l : List Byte) (h : l.all plainByte = true) : hasDoubleSlash l = false := by
  induction l with
  | nil => rfl
  | cons b l ih =>
    obtain ⟨hb, hl⟩ : plainByte b = true ∧ l.all plainByte = true := by simpa using h
    simp only [plainByte, Bool.and_eq_true, bne_iff_ne] at hb
    simp [hasDoubleSlash, ih hl, hb.2]

theorem word_wellFormed (l : List Byte) (h : l.all plainByte = true) (hne : l ≠ []) :
    (Token.word l).wellFormed = true := by
  simp only [Token.wellFormed, hasDoubleSlash_plain l h, Bool.not_false, Bool.and_true, Bool.and_eq_true]
  refine ⟨by simpa using hne, List.all_eq_true.2 fun b hb => ?_⟩
  have := List.all_eq_true.1 h b hb
  simp only [plainByte, Bool.and_eq_true] at this
  exact this.1.1

theorem paren_wellFormed (l : List Byte) (h : l.all plainByte = true) : (Token.paren l).wellFormed = true := by
  simp only [Token.wellFormed, hasDoubleSlash_plain l h, Bool.not_false, Bool.and_true]
  refine List.all_eq_true.2 fun b hb => ?_
  have := List.all_eq_true.1 h b hb
  simp only [plainByte, Bool.and_eq_true] at this
  exact this.1.2

theorem plain_digit (b : Byte) (h : 0x30 ≤ b.toNat ∧ b.toNat ≤ 0x39) : plainByte b = true := by
  revert b; decide +kernel

theorem natToken_wellFormed (n : Nat) : (natToken n).wellFormed = true := by
  refine word_wellFormed _ (List.all_eq_true.2 fun b hb => plain_digit b ?_) ?_
  · exact decimalAux_bytes _ _ _ (by simp) b hb
  · obtain ⟨k, hk⟩ := decimalFrom_decimalAux (n + 1) n [] (Nat.lt_succ_self n)
    exact (hk 0).2

theorem bitToken_wellFormed (v : Bit) : (bitToken v).wellFormed = true := by cases v <;> decide

theorem plain_bitChar (v : Bit) : plainByte (bitChar v) = true := by cases v <;> decide

theorem bitstreamToken_wellFormed (b : Bitstream) : (bitstreamToken b).wellFormed = true := by
  refine word_wellFormed _ (List.all_eq_true.2 fun x hx => ?_) (List.cons_ne_nil _ _)
  simp only [List.mem_cons, List.mem_append, List.mem_map, List.mem_reverse, List.not_mem_nil, or_false] at hx
  rcases hx with rfl | ⟨v, -, rfl⟩ | rfl
  · decide
  · exact plain_bitChar v
  · decide

theorem plain_hexDigitByte (d : Nibble) : plainByte (hexDigitByte d) = true := by revert d; decide +kernel

theorem bytesToken_wellFormed (bs : List Byte) : (bytesToken bs).wellFormed = true := by
  refine paren_wellFormed _ (List.all_eq_true.2 fun x hx => ?_)
  obtain ⟨b, -, hb⟩ := List.mem_flatMap.1 hx
  simp only [hexPair, List.mem_cons, List.not_mem_nil, or_false] at hb
  rcases hb with rfl | rfl <;> exact plain_hexDigitByte _

theorem hexToken_wellFormed (ds : List Nibble) : (hexToken ds).wellFormed = true := by
  refine paren_wellFormed _ (List.all_eq_true.2 fun x hx => ?_)
  obtain ⟨d, -, rfl⟩ := List.mem_map.1 hx
  exact plain_hexDigitByte d

theorem stateNameToken_wellFormed (s : TapState) : (stateNameToken s).wellFormed = true := by
  cases s <;> decide +kernel

theorem opName_wellFormed (k : OpName) : (Token.word k.text).wellFormed = true := by cases k <;> decide +kernel

theorem svfKeyword_wellFormed (k : SvfKeyword) : (Token.word k.text).wellFormed = true := by
  cases k <;> decide +kernel

theorem optField_wellFormed (o : OptField) : (Token.word o.text).wellFormed = true := by cases o <;> decide +kernel

theorem fieldTokens_wellFormed (t : Option (List Nibble)) (o : OptFields) :
    (fieldTokens t o).all Token.wellFormed = true := by
  unfold fieldTokens
  rw [List.all_append, Bool.and_eq_true]
  constructor
  · cases t with
    | none => rfl
    | some h =>
      simp only [tdiTokens, List.all_cons, hexToken_wellFormed, List.all_nil, Bool.and_true]
      decide +kernel
  · refine List.all_eq_true.2 fun x hx => ?_
    obtain ⟨p, -, hp⟩ := List.mem_flatMap.1 hx
    simp only [List.mem_cons, List.not_mem_nil, or_false] at hp
    rcases hp with rfl | rfl
    · exact optField_wellFormed _
    · exact hexToken_wellFormed _

theorem all_map_wellFormed {α : Type} (token : α → Token) (h : ∀ a, (token a).wellFormed = true) (l : List α) :
    (l.map token).all Token.wellFormed = true := by
  simp [h]

/-- The encoder writes tokens that can be read back. -/
theorem encodeTokens_wellFormed (i : Instr) (h : i.wellFormed = true) :
    (encodeTokens i).all Token.wellFormed = true := by
  cases i <;>
    simp_all [encodeTokens, opTokens, svfTokens, natToken_wellFormed, bitToken_wellFormed,
      bitstreamToken_wellFormed,
      bytesToken_wellFormed, stateToken, stateNameToken_wellFormed, opName_wellFormed, svfKeyword_wellFormed,
      Instr.wellFormed]
  all_goals first
    | (have := fieldTokens_wellFormed; simp only [List.all_eq_true] at this; exact fun x hx => this _ _ x hx)
    | decide +kernel

/-! ## The bytes of an instruction -/

theorem takeWhile_semicolon (a b : List Byte) (h : semicolon ∉ a) :
    ((a ++ semicolon :: b).takeWhile fun x => x != semicolon) = a := by
  induction a with
  | nil => simp
  | cons x a ih =>
    simp only [List.mem_cons, not_or] at h
    simp [ih h.2, Ne.symm h.1]

/-- The encoded text has no comment and one `;`, at its end, and its tokens are those the encoder wrote. -/
theorem encode_clean (i : Instr) (h : i.wellFormed = true) :
    semicolon ∉ renderTokens (encodeTokens i) ∧ stripComments (encode i) = encode i ∧
      lex (renderTokens (encodeTokens i)) = encodeTokens i := by
  have hw := encodeTokens_wellFormed i h
  obtain ⟨h1, h2, h3⟩ := renderTokens_clean _ hw
  refine ⟨h2, stripComments_of_none _ ?_ ?_, lex_renderTokens _ hw⟩
  · simp only [encode, List.mem_append, h1, false_or, List.mem_singleton]; decide
  · rw [encode, hasDoubleSlash_append _ _ (by decide), h3]; rfl

/-- The first token says which kind of instruction it is. -/
theorem encodeTokens_head (i : Instr) : ∃ t ts, encodeTokens i = t :: ts ∧
    (SvfKeyword.ofToken? t).isSome = i.isSvf := by
  have h1 (k : OpName) : (SvfKeyword.ofToken? (.word k.text)).isSome = false := by cases k <;> decide +kernel
  have h2 (k : SvfKeyword) : (SvfKeyword.ofToken? (.word k.text)).isSome = true := by
    rw [svfKeyword_ofToken_text]; rfl
  cases i <;> first | exact ⟨_, _, rfl, h1 _⟩ | exact ⟨_, _, rfl, h2 _⟩

theorem isSvfText_encode (i : Instr) (h : i.wellFormed = true) : isSvfText (encode i) = i.isSvf := by
  obtain ⟨h1, h2, h3⟩ := encode_clean i h
  obtain ⟨t, ts, ht, hs⟩ := encodeTokens_head i
  rw [isSvfText, h2, encode, takeWhile_semicolon _ _ h1, h3, ht]
  exact hs

/-! ## What the decoder is given -/

/-- A stripped text has no `!` and no `//`. -/
theorem stripFrom_clean (c : Bool) (l : List Byte) :
    bang ∉ stripFrom c l ∧ hasDoubleSlash (stripFrom c l) = false ∧
      ((stripFrom c l).head? = some slash → c = false ∧ l.head? = some slash) := by
  induction l generalizing c with
  | nil => simp [stripFrom, hasDoubleSlash]
  | cons b l ih =>
    rw [stripFrom]
    split
    case isTrue hb =>
      obtain ⟨h1, h2, h3⟩ := ih false
      subst hb
      refine ⟨?_, ?_, ?_⟩
      · simp only [List.mem_cons, h1, or_false]; decide
      · rw [hasDoubleSlash, h2]; rfl
      · intro h; exact absurd h (by simp; decide)
    case isFalse hb =>
      split
      case isTrue hc =>
        obtain ⟨h1, h2, h3⟩ := ih true
        exact ⟨h1, h2, fun h => by cases (h3 h).1⟩
      case isFalse hc =>
        split
        case isTrue hs =>
          obtain ⟨h1, h2, h3⟩ := ih true
          exact ⟨h1, h2, fun h => by cases (h3 h).1⟩
        case isFalse hs =>
          obtain ⟨h1, h2, h3⟩ := ih false
          simp only [Bool.or_eq_true, decide_eq_true_eq, not_or, Bool.and_eq_true, beq_iff_eq] at hs
          refine ⟨?_, ?_, ?_⟩
          · simp only [List.mem_cons, h1, or_false]; exact Ne.symm hs.1
          · rw [hasDoubleSlash, h2, Bool.or_false]
            by_contra hh
            simp only [Bool.not_eq_false, Bool.and_eq_true, beq_iff_eq] at hh
            exact hs.2 ⟨hh.1, (h3 hh.2).2⟩
          · intro h; simp only [List.head?_cons] at h
            refine ⟨by simpa using hc, ?_⟩
            simpa using h

theorem noDouble_left (a b : List Byte) (h : hasDoubleSlash (a ++ b) = false) : hasDoubleSlash a = false := by
  induction a with
  | nil => rfl
  | cons x a ih =>
    rw [List.cons_append, hasDoubleSlash, Bool.or_eq_false_iff] at h
    rw [hasDoubleSlash, ih h.2, Bool.or_false]
    cases a with
    | nil => simp
    | cons y a => exact h.1
theorem noDouble_right (a b : List Byte) (h : hasDoubleSlash (a ++ b) = false) : hasDoubleSlash b = false := by
  induction a with
  | nil => exact h
  | cons x a ih =>
    rw [List.cons_append, hasDoubleSlash, Bool.or_eq_false_iff] at h
    exact ih h.2

theorem flushWord_wf (acc r : List Byte) (hr : hasDoubleSlash (acc.reverse ++ r) = false)
    (hw : acc.all wordByte = true) : ∀ t ∈ flushWord acc, t.wellFormed = true ∨ t.isUnclosed = true := by
  intro t ht
  rw [flushWord] at ht
  split at ht
  · cases ht
  · rcases List.mem_singleton.1 ht with rfl
    left
    simp only [Token.wellFormed, noDouble_left _ _ hr, List.all_reverse, hw, Bool.and_true, Bool.not_false]
    simp_all

/-- The tokens of a stripped command can be written, but for an unclosed parenthesis. -/
theorem lexFrom_wf (p : Bool) (acc l : List Byte) (hb : bang ∉ l) (hs : semicolon ∉ l)
    (hd : hasDoubleSlash (acc.reverse ++ l) = false)
    (ha : if p then acc.all parenByte = true else acc.all wordByte = true) :
    ∀ t ∈ lexFrom p acc l, t.wellFormed = true ∨ t.isUnclosed = true := by
  induction l generalizing p acc with
  | nil =>
    intro t ht
    cases p with
    | true => simp [lexFrom] at ht; subst ht; simp [Token.isUnclosed]
    | false => simp [lexFrom] at ht; exact flushWord_wf acc [] hd (by simpa using ha) t ht
  | cons b l ih =>
    simp only [List.mem_cons, not_or] at hb hs
    intro t ht
    rw [lexFrom] at ht
    have hd' : hasDoubleSlash l = false := noDouble_right (acc.reverse ++ [b]) l (by simpa using hd)
    cases p with
    | true =>
      simp only [if_true] at ht ha
      split at ht
      · rcases List.mem_cons.1 ht with rfl | ht
        · left
          simp only [Token.wellFormed, noDouble_left _ _ hd, List.all_reverse, ha]; rfl
        · exact ih false [] hb.2 hs.2 hd' rfl t ht
      case isFalse hc =>
        refine ih true (b :: acc) hb.2 hs.2 (by simpa using hd) ?_ t ht
        simp only [if_true, List.all_cons, ha, Bool.and_true, parenByte]
        simp [hc, Ne.symm hb.1, Ne.symm hs.1]
    | false =>
      simp only [Bool.false_eq_true, if_false] at ht ha
      split at ht
      · rcases List.mem_append.1 ht with ht | ht
        · exact flushWord_wf acc _ hd ha t ht
        · exact ih true [] hb.2 hs.2 hd' rfl t ht
      case isFalse hc =>
        split at ht
        · rcases List.mem_append.1 ht with ht | ht
          · exact flushWord_wf acc _ hd ha t ht
          · exact ih false [] hb.2 hs.2 hd' rfl t ht
        case isFalse hsp =>
          refine ih false (b :: acc) hb.2 hs.2 (by simpa using hd) ?_ t ht
          simp only [Bool.false_eq_true, if_false, List.all_cons, ha, Bool.and_true, wordByte]
          simp [hc, Ne.symm hb.1, Ne.symm hs.1, hsp]

theorem decodeEnd_ok (i j : Instr) (ts : List Token) (h : decodeEnd i ts = .ok j) : j = i := by
  cases ts <;> simp [decodeEnd] at h; exact h.symm

/-- A command decodes to an SVF command. -/
theorem decodeSvf_isSvf (o : OptionalFields) (ts : List Token) (i : Instr)
    (h : decodeSvfTokens o ts = .ok i) : i.isSvf = true := by
  cases ts with
  | nil => cases h
  | cons t ts =>
    rw [decodeSvfTokens] at h
    split at h
    · cases h
    case h_2 k hk =>
      cases k <;> simp only [decodeSvfOperands] at h
      case trst | pio | piomap | frequency =>
        rw [decodeIgnored] at h; split at h <;> cases h; rfl
      case endir | enddr =>
        cases ts with
        | nil => cases h
        | cons t ts =>
          rw [decodeOneState] at h
          split at h
          · cases h
          · obtain rfl := decodeEnd_ok _ _ _ h; rfl
      case state =>
        rw [decodeStateList] at h
        split at h <;> cases h
        rfl
      case hir | hdr | tir | tdr =>
        rw [decodeContext] at h
        cases hp : decodeNumberAndFields o ts with
        | error e => rw [hp] at h; cases h
        | ok p => rw [hp] at h; cases h; rfl
      case sir | sdr =>
        rw [decodeScan] at h
        cases hp : decodeNumberAndFields o ts with
        | error e => rw [hp] at h; cases h
        | ok p =>
          rw [hp] at h
          simp only at h
          split at h
          · cases h
          · cases h; rfl
      case runtest =>
        cases ts with
        | nil => cases h
        | cons t ts =>
          rw [decodeRuntest] at h
          split at h
          · cases h
          · split at h
            · cases h
            · split at h
              · obtain rfl := decodeEnd_ok _ _ _ h; rfl
              · cases h

end Sys2Proof
end

