-- ==== Sys2Proof/Laws/Step.lean ====
section
/-!
SUPPORT. What a call, a command and a step can do, said once (44_svf.md R272; 60_exceptions.md R333, R350, R352).
-/
namespace Sys2Proof.Machine

/-- When an operation call gives a next state, and which. -/
theorem onCall_next (s t : State) (f : State → State) :
    onCall s f = .next t ↔ s.fault = none ∧ s.running = false ∧ t = f s := by
  rw [onCall]
  cases hf : s.fault with
  | some f => simp
  | none => cases hr : s.running <;> simp [eq_comm]

/-- When a command gives a next state, and which. -/
theorem onCommand_next (s t : State) (f : State → State) :
    onCommand s f = .next t ↔ s.fault = none ∧ t = f s := by
  rw [onCommand]
  cases hf : s.fault with
  | some f => simp
  | none => simp [eq_comm]

theorem onCall_ready (s : State) (f : State → State) (h : s.ready) : onCall s f = .next (f s) :=
  (onCall_next _ _ _).2 ⟨h.1, h.2, rfl⟩

theorem onCommand_ready (s : State) (f : State → State) (h : s.fault = none) : onCommand s f = .next (f s) :=
  (onCommand_next _ _ _).2 ⟨h, rfl⟩

/-- Every arm is a call or a command. -/
theorem exec_shape (i : Instr) (s : State) : ∃ f, exec i s = if i.isSvf then onCommand s f else onCall s f := by
  cases i <;> exact ⟨_, rfl⟩

theorem remaining_eq (s : State) : remaining s = s.text.drop s.pc := by
  rw [remaining, memRead, List.take_of_length_le]; simp

/-- A step while a stream runs. -/
theorem step_inStream (s : State) (h : s.inStream) : step s = match fetch Config.actual s with
    | .ended t => .next t
    | .command i after t => mapNext (setPc after) (exec i t) := by
  rw [step]
  split
  case h_1 f hf => rw [h.1] at hf; cases hf
  case h_2 hf =>
    rw [if_pos h.2.1, h.2.2, if_neg (by simp)]
    cases fetch Config.actual s with
    | ended t => rfl
    | command i after t => dsimp only; cases exec i t <;> rfl

/-- A step of the host's run. -/
theorem core_run_succ (n : Nat) (s : State) : core.run (n + 1) s = (match step s with
    | .next s' => core.run n s' | .fault r => .fault r | .refused r => .refused r :
      Host.Outcome State Fault Refusal) := by
  have h : core.step s = step s := rfl
  cases e : step s with
  | next t =>
    rw [e] at h
    exact (show Host.Core.run core (n+1) s = _ by simp only [Host.Core.run]; rw [h]; try rfl)
  | fault t =>
    rw [e] at h
    exact (show Host.Core.run core (n+1) s = _ by simp only [Host.Core.run]; rw [h]; try rfl)
  | refused t =>
    rw [e] at h
    exact (show Host.Core.run core (n+1) s = _ by simp only [Host.Core.run]; rw [h]; try rfl)

/-- What a step can do: wait, run a call, end a stream normally, by cancellation or by an error,
  or run a command. -/
theorem step_cases (s t : State) (h : step s = .next t) :
    s.fault = none ∧
    (t = s ∧ s.ready ∨
     (∃ i, exec i (takeCall s) = .next t ∧ s.ready) ∨
     (s.inStream ∧ t = endRun (.ok .none) s ∧ (s.text.drop s.pc).all isSpace = true) ∨
     (s.inStream ∧ t = cancelExit Config.actual (notePoll Config.actual s) ∧ s.cancel = true ∧
        (s.text.drop s.pc).all isSpace = false) ∨
     (s.inStream ∧ s.cancel = false ∧
        ∃ e k, t = errorExit Config.actual e s.pc k (notePoll Config.actual s)) ∨
     (s.inStream ∧ ∃ i u p r, i.isSvf = true ∧ exec i (notePoll Config.actual s) = .next u ∧
        s.text.drop s.pc = p ++ semicolon :: r ∧ t = setPc (s.pc + p.length + 1) u)) := by
  rcases Option.eq_none_or_eq_some s.fault with hf | ⟨f, hf⟩
  swap
  · rw [step, hf] at h; cases h
  · refine ⟨hf, ?_⟩
    rcases Bool.eq_false_or_eq_true s.running with hr | hr
    swap
    ·
      have hrd : s.ready := ⟨hf, hr⟩
      cases hc : s.call with
      | none =>
        have hs : step s = .next s := by simp [step, hf, hr, hc]
        rw [hs] at h; cases h; exact .inl ⟨rfl, hrd⟩
      | some bytes =>
        cases hd : decodeCall bytes with
        | error e => simp [step, hf, hr, hc, hd] at h
        | ok i =>
          have hs : step s = exec i (takeCall s) := by simp [step, hf, hr, hc, hd]
          rw [hs] at h
          exact .inr (.inl ⟨i, h, hrd⟩)
    · cases hc : s.call with
      | some b => simp [step, hf, hr, hc] at h
      | none =>
        have hin : s.inStream := ⟨hf, hr, hc⟩
        rw [step_inStream s hin, fetch, remaining_eq] at h
        right; right
        split at h
        case h_1 t' hft =>
          cases h
          split at hft
          case isTrue hsp => cases hft; exact .inl ⟨hin, rfl, hsp⟩
          case isFalse hsp =>
            right
            split at hft
            case isTrue hca => cases hft; exact .inl ⟨hin, rfl, hca, by simpa using hsp⟩
            case isFalse hca =>
              right; left
              refine ⟨hin, by simpa using hca, ?_⟩
              rw [fetchCommand] at hft
              split at hft
              · cases hft; exact ⟨_, _, rfl⟩
              · split at hft <;> cases hft
                exact ⟨_, _, rfl⟩
        case h_2 i after t' hft =>
          right; right; right
          refine ⟨hin, ?_⟩
          split at hft
          · cases hft
          · split at hft
            · cases hft
            · rw [fetchCommand] at hft
              split at hft
              · cases hft
              case h_2 command rest hsp =>
                split at hft
                · cases hft
                case h_2 j hj =>
                  cases hft
                  cases he : exec i (notePoll Config.actual s) with
                  | fault r => rw [he] at h; cases h
                  | refused r => rw [he] at h; cases h
                  | next u =>
                    rw [he] at h; cases h
                    obtain ⟨h1, -⟩ := splitCommand_eq_some _ _ _ hsp
                    rw [remaining_eq] at h1
                    exact ⟨i, u, command, rest, decodeSvf_isSvf _ _ _ hj, he, h1, rfl⟩

end Sys2Proof.Machine
end

