-- ==== Sys2Proof/Tests/Slice0.lean ====
section
/-!
SUPPORT. Tests. Every expected result is taken from spec/: a decode test's text is written out from the grammar of
30_encoding.md (for an operation call from log entry 2), and the other vectors name the vector of
spec/95_test_vectors.md or the rule they come from. The last section has a witness for the hypotheses of each
statement that has some.
-/
open Sys2Proof Sys2Proof.Machine

namespace Sys2Proof.Tests

-- The evaluations below are checked one after another, so that the whole package compiles in little memory.
set_option Elab.async false

/-! ## Helpers -/

/-- An environment for a test: N = 4, MAX_IR_BITS = 8, padding 0 (95_test_vectors.md, conventions). The pulse with
index k is answered with bit k of `answers`. -/
def answering (answers : Nat) : Params where
  maxChainDevicesPred := 3
  maxIrBitsPred := 7
  optionalFields := .ignore
  tdo := fun _ trace _ => answers.testBit trace.length
  cancel := fun _ _ _ => false
  padding := fun _ _ _ => false

/-- The block waiting in a state, all pins 0. -/
def idleIn (tap : TapState) : State :=
  { State.reset with tap := tap, tck := false, tms := false, tdi := false, cancel := false }

/-- The block in a state with a stream running at offset `pc` of a text. -/
def streamIn (tap : TapState) (text : List Char) (pc : Nat) : State :=
  { idleIn tap with text := chars text, pc := pc, running := true }

/-- A value of the next state. -/
def after {α : Type} (f : State → α) : Host.Outcome State Fault Refusal → Option α
  | .next t => some (f t)
  | .fault _ => none
  | .refused _ => none

/-- What the operation returned. -/
def answer (o : Host.Outcome State Fault Refusal) : Option (Option OpOutcome) := after State.outcome o

/-- The fault it raised. -/
def raised (o : Host.Outcome State Fault Refusal) : Option (Option FaultCode) := after State.fault o

/-- The in-out operand it left. -/
def held (o : Host.Outcome State Fault Refusal) : Option Bitstream := after State.holder o

/-- The TMS levels of all pulses. -/
def tmsOf (s : State) : List Bit := s.trace.map PulseEvent.tms

/-- The TDI levels of all pulses. -/
def tdiOf (s : State) : List Bit := s.trace.map PulseEvent.tdi

/-- The error a command is rejected with. -/
def rejection (optional : OptionalFields) (command : List Char) : Option SvfError :=
  match decodeCommand optional (chars command) with
  | .ok _ => none
  | .error e => some e

/-- The instruction a text is. -/
def decoded (text : List Char) : Option Instr := decodeText .ignore (chars text)

/-! ## Well-formed terms, and an ill-formed one for each check -/

/-- A pulse count is a `u32` (42_scan.md R220, R223). -/
theorem test_wf_pulse_bound :
    (Instr.pulseTck 4294967295).wellFormed = true ∧
    (Instr.pulseTck 4294967296).wellFormed = false := by decide

/-- A number of a command is at most 2^31 - 1 (30_encoding.md R104). -/
theorem test_wf_number :
    (Instr.runtest 2147483647).wellFormed = true ∧
    (Instr.runtest 2147483648).wellFormed = false ∧
    (Instr.hir 2147483648 none []).wellFormed = false ∧
    (Instr.sdr 2147483648 [] []).wellFormed = false := by decide

/-- A field name stands at most once (30_encoding.md R108). -/
theorem test_wf_duplicate :
    (Instr.sir 8 [] [(.tdo, []), (.mask, [])]).wellFormed = true ∧
    (Instr.sir 8 [] [(.tdo, []), (.tdo, [])]).wellFormed = false ∧
    (Instr.tdr 8 none [(.mask, []), (.tdo, []), (.mask, [])]).wellFormed = false := by decide

/-- Word tokens that could not be read back (30_encoding.md R95 to R97). -/
theorem test_wf_tokens :
    (Instr.trst [.word (chars ['O', 'N'])]).wellFormed = true ∧
    (Instr.trst [.word []]).wellFormed = false ∧
    (Instr.pio [.word (chars ['a', ' '])]).wellFormed = false ∧
    (Instr.piomap [.word (chars ['a', '!'])]).wellFormed = false ∧
    (Instr.frequency [.word (chars ['a', '/', '/'])]).wellFormed = false := by decide

/-- Parenthesised tokens that could not be read back (30_encoding.md R95, R96, R98). -/
theorem test_wf_parens :
    (Instr.pio [.paren (chars ['H', ' ', 'L'])]).wellFormed = true ∧
    (Instr.pio [.paren (chars [')'])]).wellFormed = false ∧
    (Instr.pio [.paren (chars ['/', '/'])]).wellFormed = false ∧
    (Instr.pio [.unclosed []]).wellFormed = false := by decide

/-- The fields `Reject` rejects (30_encoding.md R108). -/
theorem test_wf_optional :
    (Instr.sir 8 [] []).hasNoOptionalFields = true ∧
    (Instr.sir 8 [] [(.smask, [])]).hasNoOptionalFields = false := by decide

/-! ## Decoding: one text for each constructor -/

/-- `new 3;` -/
theorem test_decode_new : decoded ['n', 'e', 'w', ' ', '3', ';'] = some (.new 3) := by decide

/-- `length <101>;` -/
theorem test_decode_length :
    decoded ['l', 'e', 'n', 'g', 't', 'h', ' ', '<', '1', '0', '1', '>', ';'] =
      some (.length [true, false, true]) := by decide

/-- `resize <1011> 6;` -/
theorem test_decode_resize :
    decoded ['r', 'e', 's', 'i', 'z', 'e', ' ', '<', '1', '0', '1', '1', '>', ' ', '6', ';'] =
      some (.resize [true, true, false, true] 6) := by decide

/-- `get <0110> 4;` -/
theorem test_decode_get :
    decoded ['g', 'e', 't', ' ', '<', '0', '1', '1', '0', '>', ' ', '4', ';'] =
      some (.get [false, true, true, false] 4) := by decide

/-- `set_bit <0000> 2 1;` -/
theorem test_decode_set_bit :
    decoded ['s', 'e', 't', '_', 'b', 'i', 't', ' ', '<', '0', '0', '0', '0', '>', ' ', '2', ' ', '1', ';'] =
      some (.setBit [false, false, false, false] 2 true) := by decide

/-- `set_bits <000> 1 1 0;` -/
theorem test_decode_set_bits :
    decoded ['s', 'e', 't', '_', 'b', 'i', 't', 's', ' ', '<', '0', '0', '0', '>', ' ', '1', ' ', '1', ' ',
    '0', ';'] =
      some (.setBits [false, false, false] 1 [true, false]) := by decide

/-- `xor <10> <11>;` -/
theorem test_decode_xor :
    decoded ['x', 'o', 'r', ' ', '<', '1', '0', '>', ' ', '<', '1', '1', '>', ';'] =
      some (.xor [false, true] [true, true]) := by decide

/-- `concat <11> <000>;` -/
theorem test_decode_concat :
    decoded ['c', 'o', 'n', 'c', 'a', 't', ' ', '<', '1', '1', '>', ' ', '<', '0', '0', '0', '>', ';'] =
      some (.concat [true, true] [false, false, false]) := by decide

/-- `shift_right <1011> 9;` -/
theorem test_decode_shift_right :
    decoded ['s', 'h', 'i', 'f', 't', '_', 'r', 'i', 'g', 'h', 't', ' ', '<', '1', '0', '1', '1', '>', ' ',
    '9', ';'] =
      some (.shiftRight [true, true, false, true] 9) := by decide

/-- `reverse <1101>;` -/
theorem test_decode_reverse :
    decoded ['r', 'e', 'v', 'e', 'r', 's', 'e', ' ', '<', '1', '1', '0', '1', '>', ';'] =
      some (.reverse [true, false, true, true]) := by decide

/-- `equal <0> <>;` -/
theorem test_decode_equal :
    decoded ['e', 'q', 'u', 'a', 'l', ' ', '<', '0', '>', ' ', '<', '>', ';'] = some (.equal [false] []) :=
  by decide

/-- `to_hex_string <10>;` -/
theorem test_decode_to_hex_string :
    decoded ['t', 'o', '_', 'h', 'e', 'x', '_', 's', 't', 'r', 'i', 'n', 'g', ' ', '<', '1', '0', '>', ';'] =
      some (.toHexString [false, true]) := by decide

/-- `from_hex_string 5 (3346);` -/
theorem test_decode_from_hex_string :
    decoded ['f', 'r', 'o', 'm', '_', 'h', 'e', 'x', '_', 's', 't', 'r', 'i', 'n', 'g', ' ', '5', ' ', '(',
    '3', '3', '4', '6', ')', ';'] =
      some (.fromHexString 5 [0x33#8, 0x46#8]) := by decide

/-- `to_char_string <01>;` -/
theorem test_decode_to_char_string :
    decoded ['t', 'o', '_', 'c', 'h', 'a', 'r', '_', 's', 't', 'r', 'i', 'n', 'g', ' ', '<', '0', '1', '>',
    ';'] =
      some (.toCharString [true, false]) := by decide

/-- `from_char_string 12 (BCFA);` -/
theorem test_decode_from_char_string :
    decoded ['f', 'r', 'o', 'm', '_', 'c', 'h', 'a', 'r', '_', 's', 't', 'r', 'i', 'n', 'g', ' ', '1', '2',
    ' ', '(', 'B', 'C', 'F', 'A', ')', ';'] =
      some (.fromCharString 12 [0xBC#8, 0xFA#8]) := by decide

/-- `to_word_string <>;` -/
theorem test_decode_to_word_string :
    decoded ['t', 'o', '_', 'w', 'o', 'r', 'd', '_', 's', 't', 'r', 'i', 'n', 'g', ' ', '<', '>', ';'] =
      some (.toWordString []) := by decide

/-- `from_word_string 17 4660 65535;` -/
theorem test_decode_from_word_string :
    decoded ['f', 'r', 'o', 'm', '_', 'w', 'o', 'r', 'd', '_', 's', 't', 'r', 'i', 'n', 'g', ' ', '1', '7',
    ' ', '4', '6', '6', '0', ' ', '6', '5', '5', '3', '5', ';'] =
      some (.fromWordString 17 [0x1234#16, 0xFFFF#16]) := by decide

/-- `from_hex_stream 8 (31) 0;` -/
theorem test_decode_from_hex_stream :
    decoded ['f', 'r', 'o', 'm', '_', 'h', 'e', 'x', '_', 's', 't', 'r', 'e', 'a', 'm', ' ', '8', ' ', '(',
    '3', '1', ')', ' ', '0', ';'] =
      some (.fromHexStream 8 [0x31#8] false) := by decide

/-- `from_char_stream 16 (0300) 1;` -/
theorem test_decode_from_char_stream :
    decoded ['f', 'r', 'o', 'm', '_', 'c', 'h', 'a', 'r', '_', 's', 't', 'r', 'e', 'a', 'm', ' ', '1', '6',
    ' ', '(', '0', '3', '0', '0', ')', ' ', '1', ';'] =
      some (.fromCharStream 16 [0x03#8, 0x00#8] true) := by decide

/-- `to_string <1011>;` -/
theorem test_decode_to_string :
    decoded ['t', 'o', '_', 's', 't', 'r', 'i', 'n', 'g', ' ', '<', '1', '0', '1', '1', '>', ';'] =
      some (.toString [true, true, false, true]) := by decide

/-- `from_string (303178);` -/
theorem test_decode_from_string :
    decoded ['f', 'r', 'o', 'm', '_', 's', 't', 'r', 'i', 'n', 'g', ' ', '(', '3', '0', '3', '1', '7', '8',
    ')', ';'] =
      some (.fromString [0x30#8, 0x31#8, 0x78#8]) := by decide

/-- `next_state 6 1;` -/
theorem test_decode_next_state :
    decoded ['n', 'e', 'x', 't', '_', 's', 't', 'a', 't', 'e', ' ', '6', ' ', '1', ';'] =
      some (.nextState (.state .shiftDR) true) := by decide

/-- `path_of 1 16;` -/
theorem test_decode_path_of :
    decoded ['p', 'a', 't', 'h', '_', 'o', 'f', ' ', '1', ' ', '1', '6', ';'] =
      some (.pathOf (.state .runTestIdle) .invalid) := by decide

/-- `goto_next_state 2;` -/
theorem test_decode_goto_next_state :
    decoded ['g', 'o', 't', 'o', '_', 'n', 'e', 'x', 't', '_', 's', 't', 'a', 't', 'e', ' ', '2', ';'] =
      some (.gotoNextState (.state .selectDRScan)) := by decide

/-- `goto_state 7;` -/
theorem test_decode_goto_state :
    decoded ['g', 'o', 't', 'o', '_', 's', 't', 'a', 't', 'e', ' ', '7', ';'] =
      some (.gotoState (.state .shiftIR)) := by decide

/-- `go_thru_tap_sequence 1 2 4;` -/
theorem test_decode_go_thru_tap_sequence :
    decoded ['g', 'o', '_', 't', 'h', 'r', 'u', '_', 't', 'a', 'p', '_', 's', 'e', 'q', 'u', 'e', 'n', 'c',
    'e', ' ', '1', ' ', '2', ' ', '4', ';'] =
      some (.goThruTapSequence [.state .runTestIdle, .state .selectDRScan, .state .captureDR]) := by decide

/-- `update_state 3;` -/
theorem test_decode_update_state :
    decoded ['u', 'p', 'd', 'a', 't', 'e', '_', 's', 't', 'a', 't', 'e', ' ', '3', ';'] =
      some (.updateState 3) := by decide

/-- `init_tap;` -/
theorem test_decode_init_tap :
    decoded ['i', 'n', 'i', 't', '_', 't', 'a', 'p', ';'] = some (.initTap) := by decide

/-- `paths_ok;` -/
theorem test_decode_paths_ok :
    decoded ['p', 'a', 't', 'h', 's', '_', 'o', 'k', ';'] = some (.pathsOk) := by decide

/-- `set_tck 1;` -/
theorem test_decode_set_tck :
    decoded ['s', 'e', 't', '_', 't', 'c', 'k', ' ', '1', ';'] = some (.setTck true) := by decide

/-- `get_tck;` -/
theorem test_decode_get_tck : decoded ['g', 'e', 't', '_', 't', 'c', 'k', ';'] = some (.getTck) := by decide

/-- `pulse_tck 4294967295;` -/
theorem test_decode_pulse_tck :
    decoded ['p', 'u', 'l', 's', 'e', '_', 't', 'c', 'k', ' ', '4', '2', '9', '4', '9', '6', '7', '2', '9',
    '5', ';'] =
      some (.pulseTck 4294967295) := by decide

/-- `set_tms 0;` -/
theorem test_decode_set_tms :
    decoded ['s', 'e', 't', '_', 't', 'm', 's', ' ', '0', ';'] = some (.setTms false) := by decide

/-- `get_tms;` -/
theorem test_decode_get_tms : decoded ['g', 'e', 't', '_', 't', 'm', 's', ';'] = some (.getTms) := by decide

/-- `set_tdi 1;` -/
theorem test_decode_set_tdi :
    decoded ['s', 'e', 't', '_', 't', 'd', 'i', ' ', '1', ';'] = some (.setTdi true) := by decide

/-- `get_tdi;` -/
theorem test_decode_get_tdi : decoded ['g', 'e', 't', '_', 't', 'd', 'i', ';'] = some (.getTdi) := by decide

/-- `get_tdo;` -/
theorem test_decode_get_tdo : decoded ['g', 'e', 't', '_', 't', 'd', 'o', ';'] = some (.getTdo) := by decide

/-- `send_recv_bitstream <10> <0000> 0;` -/
theorem test_decode_send_recv_bitstream :
    decoded ['s', 'e', 'n', 'd', '_', 'r', 'e', 'c', 'v', '_', 'b', 'i', 't', 's', 't', 'r', 'e', 'a', 'm',
    ' ', '<', '1', '0', '>', ' ', '<', '0', '0', '0', '0', '>', ' ', '0', ';'] =
      some (.sendRecvBitstream [false, true] [false, false, false, false] false) := by decide

/-- `load_ir_then_dr <01> <1> <>;` -/
theorem test_decode_load_ir_then_dr :
    decoded ['l', 'o', 'a', 'd', '_', 'i', 'r', '_', 't', 'h', 'e', 'n', '_', 'd', 'r', ' ', '<', '0', '1',
    '>', ' ', '<', '1', '>', ' ', '<', '>', ';'] =
      some (.loadIrThenDr [true, false] [true] []) := by decide

/-- `get_number_of_devices;` -/
theorem test_decode_get_number_of_devices :
    decoded ['g', 'e', 't', '_', 'n', 'u', 'm', 'b', 'e', 'r', '_', 'o', 'f', '_', 'd', 'e', 'v', 'i', 'c',
    'e', 's', ';'] =
      some (.getNumberOfDevices) := by decide

/-- `get_idcodes;` -/
theorem test_decode_get_idcodes :
    decoded ['g', 'e', 't', '_', 'i', 'd', 'c', 'o', 'd', 'e', 's', ';'] = some (.getIdcodes) := by decide

/-- `svf_run (545253543B);` -/
theorem test_decode_svf_run :
    decoded ['s', 'v', 'f', '_', 'r', 'u', 'n', ' ', '(', '5', '4', '5', '2', '5', '3', '5', '4', '3', 'B',
    ')', ';'] =
      some (.svfRun [0x54#8, 0x52#8, 0x53#8, 0x54#8, 0x3B#8]) := by decide

/-- `TRST OFF;` -/
theorem test_decode_trst :
    decoded ['T', 'R', 'S', 'T', ' ', 'O', 'F', 'F', ';'] = some (.trst [.word (chars ['O', 'F', 'F'])]) :=
  by decide

/-- `PIO (HL Z);` -/
theorem test_decode_pio :
    decoded ['P', 'I', 'O', ' ', '(', 'H', 'L', ' ', 'Z', ')', ';'] =
      some (.pio [.paren (chars ['H', 'L', ' ', 'Z'])]) := by decide

/-- `PIOMAP;` -/
theorem test_decode_piomap : decoded ['P', 'I', 'O', 'M', 'A', 'P', ';'] = some (.piomap []) := by decide

/-- `FREQUENCY 1E6 HZ;` -/
theorem test_decode_frequency :
    decoded ['F', 'R', 'E', 'Q', 'U', 'E', 'N', 'C', 'Y', ' ', '1', 'E', '6', ' ', 'H', 'Z', ';'] =
      some (.frequency [.word (chars ['1', 'E', '6']), .word (chars ['H', 'Z'])]) := by decide

/-- `ENDIR IRPAUSE;` -/
theorem test_decode_endir :
    decoded ['E', 'N', 'D', 'I', 'R', ' ', 'I', 'R', 'P', 'A', 'U', 'S', 'E', ';'] = some (.endir .pauseIR) :=
  by decide

/-- `ENDDR\tDREXIT2 ;` -/
theorem test_decode_enddr :
    decoded ['E', 'N', 'D', 'D', 'R', '\t', 'D', 'R', 'E', 'X', 'I', 'T', '2', ' ', ';'] =
      some (.enddr .exit2DR) := by decide

/-- `STATE RESET IDLE;` -/
theorem test_decode_state :
    decoded ['S', 'T', 'A', 'T', 'E', ' ', 'R', 'E', 'S', 'E', 'T', ' ', 'I', 'D', 'L', 'E', ';'] =
      some (.state .testLogicReset [.runTestIdle]) := by decide

/-- `HIR 8 TDI (FF);` -/
theorem test_decode_hir :
    decoded ['H', 'I', 'R', ' ', '8', ' ', 'T', 'D', 'I', ' ', '(', 'F', 'F', ')', ';'] =
      some (.hir 8 (some [0xF#4, 0xF#4]) []) := by decide

/-- `HDR 12;` -/
theorem test_decode_hdr : decoded ['H', 'D', 'R', ' ', '1', '2', ';'] = some (.hdr 12 none []) := by decide

/-- `TIR 2 MASK (0)TDI(3);` -/
theorem test_decode_tir :
    decoded ['T', 'I', 'R', ' ', '2', ' ', 'M', 'A', 'S', 'K', ' ', '(', '0', ')', 'T', 'D', 'I', '(', '3',
    ')', ';'] =
      some (.tir 2 (some [0x3#4]) [(.mask, [0x0#4])]) := by decide

/-- `TDR 007 TDO (g1);` -/
theorem test_decode_tdr :
    decoded ['T', 'D', 'R', ' ', '0', '0', '7', ' ', 'T', 'D', 'O', ' ', '(', 'g', '1', ')', ';'] =
      some (.tdr 7 none [(.tdo, [0x1#4])]) := by decide

/-- `SIR 8 TDI(aA) SMASK ();` -/
theorem test_decode_sir :
    decoded ['S', 'I', 'R', ' ', '8', ' ', 'T', 'D', 'I', '(', 'a', 'A', ')', ' ', 'S', 'M', 'A', 'S', 'K',
    ' ', '(', ')', ';'] =
      some (.sir 8 [0xA#4, 0xA#4] [(.smask, [])]) := by decide

/-- `SDR 16 TDI (12\n34);` -/
theorem test_decode_sdr :
    decoded ['S', 'D', 'R', ' ', '1', '6', ' ', 'T', 'D', 'I', ' ', '(', '1', '2', '\n', '3', '4', ')', ';'] =
      some (.sdr 16 [0x1#4, 0x2#4, 0x3#4, 0x4#4] []) := by decide

/-- `RUNTEST 100 TCK;` -/
theorem test_decode_runtest :
    decoded ['R', 'U', 'N', 'T', 'E', 'S', 'T', ' ', '1', '0', '0', ' ', 'T', 'C', 'K', ';'] =
      some (.runtest 100) := by decide

/-- The bytes of `TRST;`, the first least significant. -/
theorem test_table_word : decodeTableWord 40 0x3B54535254 = some (.trst []) := by decide

/-- `get_tdo;` as a word, run as the first instruction after reset. -/
theorem test_placed_word : ∃ t, step (State.reset.withFetchWord 64 0x3B6F64745F746567) = .next t := ⟨_, rfl⟩

/-! ## Rejected texts -/

/-- 95_test_vectors.md V13, V24; X5. -/
theorem test_reject_number :
    rejection .ignore ['H', 'I', 'R', ' ', '-', '1'] = some .badNumber ∧
    rejection .ignore ['H', 'I', 'R', ' ', '2', '1', '4', '7', '4', '8', '3', '6', '4', '8'] = some .badNumber ∧
    rejection .ignore ['R', 'U', 'N', 'T', 'E', 'S', 'T', ' ', 'I', 'D', 'L', 'E', ' ', '1', '0', ' ', 'T',
    'C', 'K'] =
      some .badNumber := by decide

/-- 95_test_vectors.md V7, V16, V17, V22. -/
theorem test_reject_missing :
    rejection .ignore ['E', 'N', 'D', 'I', 'R'] = some .missingField ∧
    rejection .ignore ['S', 'I', 'R', ' ', '8'] = some .missingField ∧
    rejection .ignore ['R', 'U', 'N', 'T', 'E', 'S', 'T', ' ', '1', '0'] = some .missingField ∧
    rejection .ignore ['S', 'I', 'R', ' ', '8', ' ', 'T', 'D', 'O', ' ', '(', 'A', 'A', ')'] =
      some .missingField := by decide

/-- 95_test_vectors.md V6, V10. -/
theorem test_reject_state_name :
    rejection .ignore ['E', 'N', 'D', 'I', 'R', ' ', 'I', 'd', 'l', 'e'] = some .badStateName ∧
    rejection .ignore ['S', 'T', 'A', 'T', 'E', ' ', 'I', 'D', 'L', 'E', ' ', 'B', 'O', 'G', 'U', 'S'] =
      some .badStateName := by decide

/-- 95_test_vectors.md V3, V14. -/
theorem test_reject_hex_field :
    rejection .ignore ['P', 'I', 'O', ' ', '(', 'H', 'L', 'Z'] = some .badHexField ∧
    rejection .ignore ['H', 'I', 'R', ' ', '8', ' ', 'T', 'D', 'I', ' ', 'F', 'F'] = some .badHexField :=
  by decide

/-- 95_test_vectors.md V8, V19, V23. -/
theorem test_reject_unexpected :
    rejection .ignore ['E', 'N', 'D', 'I', 'R', ' ', 'I', 'D', 'L', 'E', ' ', 'I', 'D', 'L', 'E'] =
      some .unexpectedToken ∧
    rejection .ignore ['S', 'I', 'R', ' ', '8', ' ', 'T', 'D', 'I', ' ', '(', 'A', 'A', ')', ' ', 'X', 'Y',
    'Z'] =
      some .unexpectedToken ∧
    rejection .ignore ['R', 'U', 'N', 'T', 'E', 'S', 'T', ' ', '1', '0', ' ', 'S', 'E', 'C'] =
      some .unexpectedToken ∧
    rejection .ignore ['R', 'U', 'N', 'T', 'E', 'S', 'T', ' ', '1', '0', ' ', 'T', 'C', 'K', ' ', 'E', 'N',
    'D', 'S', 'T', 'A', 'T', 'E'] =
      some .unexpectedToken := by decide

/-- 95_test_vectors.md V21, V25, E10. -/
theorem test_reject_keyword :
    rejection .ignore ['s', 'i', 'r', ' ', '8', ' ', 'T', 'D', 'I', ' ', '(', 'A', 'A', ')'] =
      some .unknownCommand ∧
    rejection .ignore ['B', 'O', 'G', 'U', 'S', ' ', '1', ' ', '2', ' ', '3'] = some .unknownCommand ∧
    rejection .ignore [] = some .emptyCommand ∧
    rejection .ignore [' ', ' '] = some .emptyCommand := by decide

/-- 95_test_vectors.md V15. -/
theorem test_reject_duplicate :
    rejection .ignore ['H', 'I', 'R', ' ', '8', ' ', 'T', 'D', 'I', ' ', '(', 'F', 'F', ')', ' ', 'T', 'D',
    'I', ' ', '(', '0', '0', ')'] =
      some .duplicateField := by decide

/-- 95_test_vectors.md V17, V18 with `Reject`. -/
theorem test_reject_optional :
    rejection .reject ['S', 'I', 'R', ' ', '8', ' ', 'T', 'D', 'O', ' ', '(', 'A', 'A', ')'] =
      some .rejectedField ∧
    rejection .reject ['S', 'I', 'R', ' ', '8', ' ', 'T', 'D', 'I', ' ', '(', 'A', 'A', ')', ' ', 'T', 'D',
    'O', ' ', '(', '0', '0', ')'] =
      some .rejectedField ∧
    rejection .reject ['S', 'I', 'R', ' ', '8', ' ', 'T', 'D', 'I', ' ', '(', 'A', 'A', ')'] = none :=
  by decide

/-- 95_test_vectors.md X5: the first error in token order. -/
theorem test_first_error :
    rejection .ignore ['H', 'I', 'R', ' ', 'x', ' ', 'T', 'D', 'I', ' ', 'F', 'F'] = some .badNumber :=
  by decide

/-- 95_test_vectors.md section 2.7: a comment inside a field. -/
theorem test_comment_in_field :
    stripComments (chars ['(', 'A', '/', '/', ' ', 'x', ';', '\n', 'A', ')']) =
      chars ['(', 'A', '\n', 'A', ')'] := by decide

/-! ## Bitstream vectors -/

/-- B2. -/
theorem test_new :
    answer (exec (.new 3) (idleIn .runTestIdle)) = some (some (.ok (.bits [false, false, false]))) := by decide

/-- B3. -/
theorem test_get_fault :
    raised (exec (.get [false, true, true, false] 4) (idleIn .runTestIdle)) =
      some (some (.indexOutOfRange 4 4)) := by decide

/-- B5. -/
theorem test_resize :
    held (exec (.resize [true, true, false, true] 6) (idleIn .runTestIdle)) =
      some [true, true, false, true, false, false] ∧
    held (exec (.resize [true, true, false, true] 2) (idleIn .runTestIdle)) = some [true, true] := by decide

/-- B6. -/
theorem test_set_bit :
    held (exec (.setBit [false, false, false, false] 2 true) (idleIn .runTestIdle)) =
      some [false, false, true, false] ∧
    raised (exec (.setBit [false, false, false, false] 4 true) (idleIn .runTestIdle)) =
      some (some (.indexOutOfRange 4 4)) := by decide

/-- B7, B8. -/
theorem test_set_bits :
    held (exec (.setBits [false, false, false, false, false] 1 [true, true, false]) (idleIn .runTestIdle)) =
      some [false, true, true, false, false] ∧
    raised (exec (.setBits [false, false, false] 7 []) (idleIn .runTestIdle)) = some none := by decide

/-- B9. -/
theorem test_set_bits_partial :
    held (exec (.setBits [false, false, false] 2 [true, true]) (idleIn .runTestIdle)) =
      some [false, false, true] ∧
    raised (exec (.setBits [false, false, false] 2 [true, true]) (idleIn .runTestIdle)) =
      some (some (.indexOutOfRange 3 3)) := by decide

/-- B10. -/
theorem test_xor :
    answer (exec (.xor [false, false, true, true] [false, true, false, true]) (idleIn .runTestIdle)) =
      some (some (.ok (.bits [false, true, true, false]))) ∧
    raised (exec (.xor [true] [true, false]) (idleIn .runTestIdle)) = some (some (.lengthMismatch 1 2)) :=
  by decide

/-- B11. -/
theorem test_concat :
    answer (exec (.concat [true, true] [false, false, false]) (idleIn .runTestIdle)) =
      some (some (.ok (.bits [false, false, false, true, true]))) := by decide

/-- B12. -/
theorem test_shift_right :
    held (exec (.shiftRight [true, true, false, true] 1) (idleIn .runTestIdle)) =
      some [true, false, true, false] ∧
    held (exec (.shiftRight [true, true, false, true] 9) (idleIn .runTestIdle)) =
      some [false, false, false, false] := by decide

/-- B13. -/
theorem test_reverse :
    held (exec (.reverse [true, false, true, true]) (idleIn .runTestIdle)) = some [true, true, false, true] :=
  by decide

/-- B29. -/
theorem test_equal :
    answer (exec (.equal [false] [false, false]) (idleIn .runTestIdle)) = some (some (.ok (.bool false))) ∧
    answer (exec (.equal [] []) (idleIn .runTestIdle)) = some (some (.ok (.bool true))) := by decide

/-- B17, B18. -/
theorem test_to_hex :
    toHex (fun _ => false) [false, true, false, true, false, true, false, true, true, true, true, true, true,
    true, true, true] =
      chars ['F', 'F', 'A', 'A'] ∧
    toHex (fun _ => false) [false, true, true, false, true] = chars ['1', '6'] ∧
    toHex (fun i => i == 6) [false, true, true, false, true] = chars ['5', '6'] := by decide

/-- B14, B15. -/
theorem test_from_hex :
    answer (exec (.fromHexString 16 (chars ['(', '1', 'A', '2', 'B', ')'])) (idleIn .runTestIdle)) =
      some (some (.ok (.bits [true, true, false, true, false, true, false, false, false, true, false, true,
    true, false, false, false]))) ∧
    answer (exec (.fromHexString 5 (chars ['3', 'F'])) (idleIn .runTestIdle)) =
      some (some (.ok (.bits [true, true, true, true, true]))) := by decide

/-- B16. -/
theorem test_from_hex_permissive :
    answer (exec (.fromHexString 8 (chars ['x', '1', '-', '2', 'y'])) (idleIn .runTestIdle)) =
      some (some (.ok (.bits [false, true, false, false, true, false, false, false]))) := by decide

/-- B19. -/
theorem test_to_chars :
    toChars (fun _ => false) [false, false, true, true, true, true, false, true, false, true, false, true] =
      [0xBC#8, 0x0A#8] := by decide

/-- B19, B20. -/
theorem test_from_chars :
    answer (exec (.fromCharString 12 [0xBC#8, 0xFA#8]) (idleIn .runTestIdle)) =
      some (some (.ok (.bits [false, false, true, true, true, true, false, true, false, true, false, true]))) ∧
    raised (exec (.fromCharString 9 [0xFF#8]) (idleIn .runTestIdle)) = some (some (.shortInput 1 2)) :=
  by decide

/-- B21. -/
theorem test_to_words :
    toWords (fun _ => false) [false, true, true, true, true, false, true, true, false, false, true, true, true,
    true, false, true, false, true, false, true] =
      [0xBCDE#16, 0x000A#16] := by decide

/-- B21, B22. -/
theorem test_from_words :
    answer (exec (.fromWordString 20 [0xBCDE#16, 0xFFFA#16]) (idleIn .runTestIdle)) =
      some (some (.ok (.bits [false, true, true, true, true, false, true, true, false, false, true, true, true,
    true, false, true, false, true, false, true]))) ∧
    raised (exec (.fromWordString 17 [0x1234#16]) (idleIn .runTestIdle)) = some (some (.shortInput 1 2)) :=
  by decide

/-- B23, B24. -/
theorem test_hex_stream :
    answer (exec (.fromHexStream 8 (chars ['0', 'x', '1', 'F', '.', '.']) false) (idleIn .runTestIdle)) =
      some (some (.ok (.bits [true, false, false, false, false, false, false, false]))) ∧
    after State.reader (exec (.fromHexStream 8 (chars ['0', 'x', '1', 'F', '.',
    '.']) false) (idleIn .runTestIdle)) =
      some (chars ['F', '.', '.']) ∧
    answer (exec (.fromHexStream 8 (chars ['1']) false) (idleIn .runTestIdle)) =
      some (some (.error (.truncatedStream 8 1))) := by decide

/-- B25, B26. -/
theorem test_char_stream :
    answer (exec (.fromCharStream 16 [0x03#8, 0x00#8] true) (idleIn .runTestIdle)) =
      some (some (.ok (.bits [false, false, false, false, false, false, false, false, false, false, false,
    false, false, false, true, true]))) ∧
    answer (exec (.fromCharStream 16 [0x03#8] false) (idleIn .runTestIdle)) =
      some (some (.error (.truncatedStream 16 1))) := by decide

/-- B27. -/
theorem test_to_string :
    answer (exec (.toString [true, true, false, true]) (idleIn .runTestIdle)) =
      some (some (.ok (.text (chars ['1', '0', '1', '1'])))) := by decide

/-- B27, B28. -/
theorem test_from_string :
    answer (exec (.fromString (chars ['0', '1', '1', '0'])) (idleIn .runTestIdle)) =
      some (some (.ok (.bits [false, true, true, false]))) ∧
    raised (exec (.fromString (chars ['0', '1', 'x'])) (idleIn .runTestIdle)) =
      some (some (.badStringChar 2 0x78#8)) := by decide

/-! ## TAP vectors -/

/-- T1; 41_tap.md R190. -/
theorem test_next_state :
    answer (exec (.nextState (.state .shiftDR) true) (idleIn .runTestIdle)) =
      some (some (.ok (.state .exit1DR))) ∧
    raised (exec (.nextState .invalid true) (idleIn .runTestIdle)) = some (some .invalidState) := by decide

/-- T2. -/
theorem test_path_of :
    answer (exec (.pathOf (.state .runTestIdle) (.state .shiftDR)) (idleIn .runTestIdle)) =
      some (some (.ok (.states [.selectDRScan, .captureDR, .shiftDR]))) := by decide

/-- T3, T4. -/
theorem test_longest_route :
    route .captureDR .exit2IR = [true, true, true, true, false, true, false, true] ∧
    route .selectIRScan .exit2DR = [true, false, true, false, true, false, true] := by decide

/-- T7, T8. -/
theorem test_goto_next :
    after tmsOf (exec (.gotoNextState (.state .runTestIdle)) (idleIn .runTestIdle)) = some [false] ∧
    raised (exec (.gotoNextState (.state .shiftDR)) (idleIn .runTestIdle)) =
      some (some (.illegalTransition .runTestIdle .shiftDR)) := by decide

/-- T9, T10, T11. -/
theorem test_goto :
    after tmsOf (exec (.gotoState (.state .shiftIR)) (idleIn .runTestIdle)) = some [true, true, false, false] ∧
    after tmsOf (exec (.gotoState (.state .shiftIR)) (idleIn .exit1IR)) = some [false, true, false] ∧
    raised (exec (.gotoState .invalid) (idleIn .runTestIdle)) = some (some .invalidState) := by decide

/-- T13. -/
theorem test_go_thru :
    after tmsOf (exec (.goThruTapSequence [.state .runTestIdle, .state .selectDRScan,
    .state .captureDR]) (idleIn .testLogicReset)) =
      some [false, true, false] := by decide

/-- T14. -/
theorem test_go_thru_partial :
    after tmsOf (exec (.goThruTapSequence [.state .runTestIdle, .state .selectDRScan,
    .state .shiftDR]) (idleIn .testLogicReset)) =
      some [false, true] ∧
    raised (exec (.goThruTapSequence [.state .runTestIdle, .state .selectDRScan,
    .state .shiftDR]) (idleIn .testLogicReset)) =
      some (some (.illegalTransition .selectDRScan .shiftDR)) := by decide

/-- T16, T17. -/
theorem test_update_state :
    after State.tap (exec (.updateState 3) (idleIn .captureDR)) = some .shiftDR ∧
    after State.tap (exec (.updateState 3) { idleIn .runTestIdle with tms := true }) = some .testLogicReset :=
  by decide

/-- T12. -/
theorem test_init_tap :
    after tmsOf (exec .initTap (idleIn .shiftDR)) = some [true, true, true, true, true] ∧
    after State.tap (exec .initTap (idleIn .shiftDR)) = some .testLogicReset := by decide

/-- T19. -/
theorem test_paths_ok :
    answer (exec .pathsOk (idleIn .runTestIdle)) = some (some (.ok (.bool true))) := by decide

/-! ## Scan and chain vectors -/

/-- 42_scan.md R223: the tracker is not moved. -/
theorem test_pulse_tck :
    after tmsOf (exec (.pulseTck 2) (idleIn .runTestIdle)) = some [false, false] ∧
    after State.tap (exec (.pulseTck 2) (idleIn .runTestIdle)) = some .runTestIdle := by decide

/-- S1. -/
theorem test_scan_exit :
    after tmsOf (exec (.sendRecvBitstream [false, true, true, false] [] true) (idleIn .shiftIR)) =
      some [false, false, false, true] ∧
    after tdiOf (exec (.sendRecvBitstream [false, true, true, false] [] true) (idleIn .shiftIR)) =
      some [false, true, true, false] ∧
    after State.tap (exec (.sendRecvBitstream [false, true, true, false] [] true) (idleIn .shiftIR)) =
      some .exit1IR := by decide

/-- S3, S5. -/
theorem test_scan_read :
    ((sendRecv (answering 7) [] [false, false, false] true (idleIn .shiftDR)).holder,
    (sendRecv (answering 7) [] [false, false, false] true (idleIn .shiftDR)).tap) =
      ([true, true, true], .exit1DR) ∧
    tdiOf (sendRecv (answering 7) [] [false, false, false] true (idleIn .shiftDR)) = [false, false, false] ∧
    raised (exec (.sendRecvBitstream [true] [] true) (idleIn .exit1DR)) =
      some (some (.wrongTapState .exit1DR)) := by decide

/-- S7. -/
theorem test_load_ir_then_dr :
    tmsOf (loadIrThenDr (answering 16416) [true, true, true, true] [true, false, true] [false, false,
    false] (idleIn .testLogicReset)) =
      [false, true, true, false, false, false, false, false, true, true, true, false, false, false, false,
    true, true, false] ∧
    (tdiOf (loadIrThenDr (answering 16416) [true, true, true, true] [true, false, true] [false, false,
    false] (idleIn .testLogicReset))).drop 5 =
      [true, true, true, true, true, true, true, true, true, false, true, true, true] ∧
    (loadIrThenDr (answering 16416) [true, true, true, true] [true, false, true] [false, false,
    false] (idleIn .testLogicReset)).holder =
      [false, true, false] := by decide

/-- S9, S11. -/
theorem test_load_bad_start :
    raised (exec (.loadIrThenDr [true] [] []) (idleIn .shiftDR)) = some (some (.badStartState .shiftDR)) ∧
    after tmsOf (exec (.loadIrThenDr [true, false] [] []) (idleIn .pauseIR)) =
      some [true, false, false, true, true, false] := by decide

/-- C1. -/
theorem test_count :
    (numberOfDevices (answering 503534592) (idleIn .runTestIdle)).outcome = some (.ok (.nat 3)) ∧
    (numberOfDevices (answering 503534592) (idleIn .runTestIdle)).numdev = 3 ∧
    tmsOf (numberOfDevices (answering 503534592) (idleIn .runTestIdle)) =
      [true, true, true, true, true, false, true, true, false, false, false, false, false, false, false, false,
    false, true, true, true, false, false, false, false, false, false, false, false, false, false, true, true,
    false] := by decide

/-- C5, C6. -/
theorem test_count_fails :
    (numberOfDevices (answering 8589934591) (idleIn .runTestIdle)).outcome =
      some (.error (.noChainTerminator 5)) ∧
    (numberOfDevices (answering 0) (idleIn .runTestIdle)).outcome = some (.ok (.nat 0)) := by decide

/-- C9: what the chain of the vector answers in the two data scans. -/
theorem test_idcodes :
    (idcodes (answering 81129638390017317253748174618624) (idleIn .runTestIdle)).idcodes =
      [bs 32 0xB2C08126, bs 32 0xFFFFFFFE] := by decide +kernel

/-- C7, C8. -/
theorem test_idcodes_none :
    (idcodes (answering 8589934591) (idleIn .runTestIdle)).outcome = some (.error (.noChainTerminator 5)) ∧
    (idcodes (answering 0) (idleIn .runTestIdle)).outcome = some (.ok (.bitstreams [])) := by decide

/-! ## Command and stream vectors -/

/-- P1: the SIR of the source's scenario. -/
theorem test_sir :
    after tmsOf (step { streamIn .runTestIdle ['S', 'I', 'R', ' ', '8', ' ', 'T', 'D', 'I', ' ', '(', 'A', 'A',
    ')', ';'] 0 with hir := bs 8 0xFF }) =
      some ([true, true, false, false] ++ List.replicate 15 false ++ [true] ++ [true, false]) ∧
    after (fun t => ((tdiOf t).drop 4).take 16) (step { streamIn .runTestIdle ['S', 'I', 'R', ' ', '8', ' ',
    'T', 'D', 'I', ' ', '(', 'A', 'A', ')', ';'] 0 with hir := bs 8 0xFF }) =
      some [false, true, false, true, false, true, false, true, true, true, true, true, true, true, true,
    true] := by decide

/-- V33: trailer, data, header. -/
theorem test_sir_payload :
    after (fun t => ((tdiOf t).drop 4).take 9) (step { streamIn .runTestIdle ['S', 'I', 'R', ' ', '4', ' ',
    'T', 'D', 'I', ' ', '(', 'A', ')', ';'] 0 with hir := bs 3 5, tir := bs 2 1 }) =
      some [true, false, false, true, false, true, true, false, true] := by decide

/-- P2: the SDR with its header, from PauseIR. -/
theorem test_sdr :
    after tmsOf (step { streamIn .pauseIR ['S', 'D', 'R', ' ', '8', ' ', 'T', 'D', 'I', ' ', '(', 'A', '5',
    ')', ';'] 0 with hdr := bs 1 0 }) =
      some [true, true, true, false, false, false, false, false, false, false, false, false, false, true, true,
    false] ∧
    after (fun t => ((tdiOf t).drop 5).take 9) (step { streamIn .pauseIR ['S', 'D', 'R', ' ', '8', ' ', 'T',
    'D', 'I', ' ', '(', 'A', '5', ')', ';'] 0 with hdr := bs 1 0 }) =
      some [true, false, true, false, false, true, false, true, false] := by decide

/-- V11. -/
theorem test_state :
    after tmsOf (step (streamIn .runTestIdle ['S', 'T', 'A', 'T', 'E', ' ', 'D', 'R', 'E', 'X', 'I', 'T', '2',
    ' ', 'I', 'D', 'L', 'E', ';'] 0)) =
      some [true, false, true, false, true, true, false] ∧
    after State.tap (step (streamIn .runTestIdle ['S', 'T', 'A', 'T', 'E', ' ', 'D', 'R', 'E', 'X', 'I', 'T',
    '2', ' ', 'I', 'D', 'L', 'E', ';'] 0)) =
      some .runTestIdle := by decide

/-- V12. -/
theorem test_state_reset :
    after tmsOf (step (streamIn .pauseIR ['S', 'T', 'A', 'T', 'E', ' ', 'R', 'E', 'S', 'E', 'T', ' ', 'I', 'D',
    'L', 'E', ';'] 0)) =
      some [true, true, true, true, true, false] ∧
    after State.tap (step (streamIn .pauseIR ['S', 'T', 'A', 'T', 'E', ' ', 'R', 'E', 'S', 'E', 'T', ' ', 'I',
    'D', 'L', 'E', ';'] 0)) =
      some .runTestIdle := by decide

/-- V26. -/
theorem test_runtest :
    after tmsOf (step (streamIn .testLogicReset ['R', 'U', 'N', 'T', 'E', 'S', 'T', ' ', '3', ' ', 'T', 'C',
    'K', ';'] 0)) =
      some [true, true, true] ∧
    after State.tap (step (streamIn .testLogicReset ['R', 'U', 'N', 'T', 'E', 'S', 'T', ' ', '3', ' ', 'T',
    'C', 'K', ';'] 0)) =
      some .testLogicReset := by decide

/-- V27. -/
theorem test_runtest_unstable :
    after tmsOf (step (streamIn .exit1DR ['R', 'U', 'N', 'T', 'E', 'S', 'T', ' ', '3', ' ', 'T', 'C', 'K',
    ';'] 0)) =
      some [false, false, false] ∧
    after State.tap (step (streamIn .exit1DR ['R', 'U', 'N', 'T', 'E', 'S', 'T', ' ', '3', ' ', 'T', 'C', 'K',
    ';'] 0)) =
      some .pauseDR := by decide

/-- V29. -/
theorem test_hir :
    after State.hir (step { streamIn .runTestIdle ['H', 'I', 'R', ' ', '1', '2',
    ';'] 0 with hir := bs 8 0xFF }) =
      some [true, true, true, true, true, true, true, true, false, false, false, false] ∧
    after State.pc (step { streamIn .runTestIdle ['H', 'I', 'R', ' ', '1', '2',
    ';'] 0 with hir := bs 8 0xFF }) =
      some 7 := by decide

/-- V30. -/
theorem test_tdr :
    after State.tdr (step (streamIn .runTestIdle ['T', 'D', 'R', ' ', '2', ' ', 'T', 'D', 'I', ' ', '(', '7',
    ')', ';'] 0)) =
      some [true, true] := by decide

/-- P3. -/
theorem test_unknown_command :
    answer (step (streamIn .runTestIdle ['S', 'T', 'A', 'T', 'E', ' ', 'I', 'D', 'L', 'E', ';', '\n', 'B', 'O',
    'G', 'U', 'S', ' ', '1', ' ', '2', ' ', '3', ';', '\n', 'S', 'I', 'R', ' ', '8', ' ', 'T', 'D', 'I', ' ',
    '(', 'A', 'A', ')', ';', '\n'] 11)) =
      some (some (.error (.svf .unknownCommand 11 (chars ['B', 'O', 'G', 'U', 'S'])))) ∧
    after tmsOf (step (streamIn .runTestIdle ['S', 'T', 'A', 'T', 'E', ' ', 'I', 'D', 'L', 'E', ';', '\n', 'B',
    'O', 'G', 'U', 'S', ' ', '1', ' ', '2', ' ', '3', ';', '\n', 'S', 'I', 'R', ' ', '8', ' ', 'T', 'D', 'I',
    ' ', '(', 'A', 'A', ')', ';', '\n'] 11)) =
      some [true, true, true, true, true] ∧
    after State.pc (step (streamIn .runTestIdle ['S', 'T', 'A', 'T', 'E', ' ', 'I', 'D', 'L', 'E', ';', '\n',
    'B', 'O', 'G', 'U', 'S', ' ', '1', ' ', '2', ' ', '3', ';', '\n', 'S', 'I', 'R', ' ', '8', ' ', 'T', 'D',
    'I', ' ', '(', 'A', 'A', ')', ';', '\n'] 11)) =
      some 11 := by decide

/-- V35. -/
theorem test_unterminated :
    answer (step (streamIn .runTestIdle ['S', 'I', 'R', ' ', '8', ' ', 'T', 'D', 'I', ' ', '(', 'A', 'A', ')',
    ';', ' ', 'X'] 15)) =
      some (some (.error (.svf .unterminatedCommand 15 (chars ['X'])))) := by decide

/-- P5: the poll before the second command answers true. -/
theorem test_cancelled :
    answer (step { streamIn .runTestIdle ['S', 'I', 'R', ';', '\n', 'R', 'U', 'N', 'T', 'E', 'S', 'T', ' ',
    '1', '0', ' ', 'T', 'C', 'K', ';'] 4 with cancel := true }) =
      some (some .cancelled) ∧
    after State.pc (step { streamIn .runTestIdle ['S', 'I', 'R', ';', '\n', 'R', 'U', 'N', 'T', 'E', 'S', 'T',
    ' ', '1', '0', ' ', 'T', 'C', 'K', ';'] 4 with cancel := true }) =
      some 4 ∧
    after State.tap (step { streamIn .runTestIdle ['S', 'I', 'R', ';', '\n', 'R', 'U', 'N', 'T', 'E', 'S', 'T',
    ' ', '1', '0', ' ', 'T', 'C', 'K', ';'] 4 with cancel := true }) =
      some .testLogicReset := by decide

/-- V37: no poll at the end of the text. -/
theorem test_normal_end :
    answer (step { streamIn .runTestIdle [' ', '\n'] 0 with cancel := true }) = some (some (.ok .none)) ∧
    after tmsOf (step { streamIn .runTestIdle [' ', '\n'] 0 with cancel := true }) = some [] := by decide

/-- 44_svf.md R271. -/
theorem test_svf_run :
    after State.text (exec (.svfRun (chars ['!', ' ', 'x', ';', '\n', 'S', 'I', 'R'])) (idleIn .runTestIdle)) =
      some (chars ['\n', 'S', 'I', 'R']) ∧
    after State.running (exec (.svfRun []) (idleIn .runTestIdle)) = some true := by decide

/-! ## Witnesses: states and operands that meet the hypotheses of each statement -/

/-- The block takes a call after reset. -/
theorem reset_ready : State.reset.ready := ⟨rfl, rfl⟩

/-- It is not stuck. -/
theorem reset_no_fault : State.reset.fault = none := rfl

/-- A block that waits in any state takes a call. -/
theorem idle_ready : ∀ tap : TapState, (idleIn tap).ready := fun _ => ⟨rfl, rfl⟩

/-- The largest numbers; both clauses. -/
theorem witness_DecodeUndoesEncode :
    (Instr.pulseTck 4294967295).wellFormed = true ∧
    (Instr.sir 2147483647 [] []).wellFormed = true ∧
    (Instr.sir 2147483647 [] []).hasNoOptionalFields = true := by decide

/-- Both parameters. -/
theorem witness_DecoderGivesWellFormed :
    decodeText .ignore (chars ['S', 'I', 'R', ' ', '2', '1', '4', '7', '4', '8', '3', '6', '4', '7', ' ', 'T',
    'D', 'I', ' ', '(', ')', ' ', 'T', 'D', 'O', ' ', '(', ')', ';']) =
      some (.sir 2147483647 [] [(.tdo, [])]) ∧
    decodeText .reject (chars ['R', 'U', 'N', 'T', 'E', 'S', 'T', ' ', '0', ' ', 'T', 'C', 'K', ';']) =
      some (.runtest 0) := by decide

/-- Both clauses, with one slash before a comment, and a comment that holds comment marks. -/
theorem witness_CommentsAreStripped :
    (chars ['a', '/']).all (fun x => x != lineFeed && x != bang) = true ∧
    (chars ['/', '/', '!']).all (fun x => x != lineFeed) = true ∧
    hasDoubleSlash (chars ['a', '/']) = false ∧
    (chars ['a', ' ']).all (fun x => x != lineFeed && x != bang) = true ∧
    hasDoubleSlash (chars ['a', ' '] ++ [slash]) = false := by decide

/-- Each clause, at the bounds of a number. -/
theorem witness_MalformedCommandsAreNamed :
    (∀ k : SvfKeyword, Token.word (chars ['s', 'i', 'r']) ≠ .word k.text) ∧
    (∀ k : SvfKeyword, Token.unclosed [] ≠ .word k.text) ∧
    (Token.unclosed []).isUnclosed = true ∧
    SvfKeyword.state ∉ [SvfKeyword.trst, .pio, .piomap, .frequency] ∧
    SvfKeyword.frequency ∈ [SvfKeyword.trst, .pio, .piomap, .frequency] ∧
    (∃ x ∈ [Token.word [], .unclosed []], x.isUnclosed = true) ∧
    SvfKeyword.enddr ∈ [SvfKeyword.endir, .enddr] ∧
    stateName? (.word (chars ['I', 'd', 'l', 'e'])) = none ∧
    SvfKeyword.runtest ∈ [SvfKeyword.hir, .hdr, .tir, .tdr, .sir, .sdr, .runtest] ∧
    svfNumber? (natToken 2147483648) = none ∧
    svfNumber? (natToken 2147483647) = some 2147483647 ∧
    Token.word [] ≠ .word (chars ['T', 'C', 'K']) ∧
    SvfKeyword.sdr ∈ [SvfKeyword.hir, .hdr, .tir, .tdr, .sir, .sdr] ∧
    fieldListReadable .ignore [(some .mask, [])] ∧
    fieldListReadable .reject [(none, [])] ∧
    (∀ f, Token.paren [] ≠ .word (fieldText f)) ∧
    (none : Option OptField) ∈ [(none, ([] : List Byte))].map Prod.fst ∧
    (some OptField.tdo) ∉ [(none, ([] : List Byte))].map Prod.fst ∧
    (some OptField.tdo) ≠ none ∧
    (∀ h, Token.word [] ≠ .paren h) ∧
    SvfKeyword.sdr ∈ [SvfKeyword.sir, .sdr] ∧
    (none : Option OptField) ∉ [(some OptField.mask, ([] : List Byte))].map Prod.fst :=
  ⟨by rintro ⟨⟩ <;> decide, nofun, rfl, by decide, by decide, ⟨.unclosed [], by decide, rfl⟩, by decide,
    by decide, by decide, by decide, by decide, by decide, by decide, ⟨by decide, nofun⟩, ⟨by decide,
    fun _ => by decide⟩, nofun, by decide, by decide, by decide, nofun, by decide, by decide⟩

/-- A call that decodes. -/
theorem witness_StepRunsTheCall :
    { idleIn .pauseDR with call := some (chars ['g', 'e', 't', '_', 't', 'd', 'o', ';']) }.ready ∧
    decodeCall (chars ['g', 'e', 't', '_', 't', 'd', 'o', ';']) = .ok .getTdo := ⟨⟨rfl, rfl⟩, rfl⟩

/-- The last command of a text. -/
theorem witness_StepRunsTheCommand :
    (streamIn .runTestIdle ['T', 'R', 'S', 'T', ';', 'P', 'I', 'O', ';'] 5).inStream ∧
    (streamIn .runTestIdle ['T', 'R', 'S', 'T', ';', 'P', 'I', 'O', ';'] 5).cancel = false ∧
    (streamIn .runTestIdle ['T', 'R', 'S', 'T', ';', 'P', 'I', 'O',
    ';'] 5).text.drop (streamIn .runTestIdle ['T', 'R', 'S', 'T', ';', 'P', 'I', 'O', ';'] 5).pc =
      chars ['P', 'I', 'O'] ++ semicolon :: [] ∧
    semicolon ∉ chars ['P', 'I', 'O'] ∧
    decodeCommand Config.optionalFields (chars ['P', 'I', 'O']) = .ok (.pio []) :=
  ⟨⟨rfl, rfl, rfl⟩, rfl, by decide, by decide, rfl⟩

/-- An operation and a command. -/
theorem witness_PlacedInstructionRuns :
    (Instr.getTdo).wellFormed = true ∧
    (Instr.getTdo).hasNoOptionalFields = true ∧
    (Instr.getTdo).isSvf = false ∧
    (Instr.runtest 0).wellFormed = true ∧
    (Instr.runtest 0).hasNoOptionalFields = true ∧
    (Instr.runtest 0).isSvf = true ∧
    State.reset.fault = none := by refine ⟨?_, ?_, ?_, ?_, ?_, ?_, rfl⟩ <;> decide

/-- A stuck block. -/
theorem witness_StuckBlockTakesNoStep :
    { State.reset with fault := some .invalidState }.fault = some .invalidState := rfl

/-- A call while a stream runs. -/
theorem witness_ConcurrentUseIsRefused :
    { streamIn .runTestIdle [] 0 with call := some [] }.fault = none ∧
    { streamIn .runTestIdle [] 0 with call := some [] }.running = true ∧
    { streamIn .runTestIdle [] 0 with call := some [] }.call ≠ none ∧
    (Instr.getTdo).isSvf = false := ⟨rfl, rfl, Option.some_ne_none _, rfl⟩

/-- No call, and a call of no bytes. -/
theorem witness_BlockWaitsForACall :
    State.reset.ready ∧
    State.reset.call = none ∧
    { State.reset with call := some [] }.ready ∧
    decodeCall [] = .error .unterminated := ⟨⟨rfl, rfl⟩, rfl, ⟨rfl, rfl⟩, rfl⟩

/-- The registers are legal at reset. -/
theorem reset_inv : State.reset.inv := ⟨Or.inl rfl, fun _ h => absurd h List.not_mem_nil, Nat.le_refl 0⟩

/-- The largest device count, and a step. -/
theorem witness_StepKeepsRegistersLegal :
    { State.reset with numdev := Int.ofNat Config.actual.maxChainDevices }.inv ∧
    step { State.reset with numdev := Int.ofNat Config.actual.maxChainDevices } =
      .next { State.reset with numdev := Int.ofNat Config.actual.maxChainDevices } :=
  ⟨⟨Or.inr ⟨Int.natCast_nonneg _, Int.le_refl _⟩, fun _ h => absurd h List.not_mem_nil, Nat.le_refl 0⟩, rfl⟩

/-- A step that adds pulses. -/
theorem witness_StepOnlyAddsPulses :
    ∃ t, step { idleIn .shiftDR with call := some (chars ['i', 'n', 'i', 't', '_', 't', 'a', 'p', ';']) } =
      .next t ∧
    t.trace ≠ [] := ⟨_, rfl, by decide⟩

/-- `init_tap`. -/
theorem witness_TrackerFollowsPulses :
    (∀ n, Instr.initTap ≠ .pulseTck n) ∧
    (∀ n, Instr.initTap ≠ .updateState n) ∧
    ∃ t, exec .initTap (idleIn .shiftDR) = .next t := ⟨nofun, nofun, _, rfl⟩

/-- `SIR`, an operation that faults, and one that writes no register. -/
theorem witness_RegistersHaveTheirWriters :
    (∀ x, Instr.sir 0 [] [] ≠ .svfRun x) ∧
    (∀ d, Instr.sir 0 [] [] ≠ .endir d) ∧
    mayFault (.sir 0 [] []) = false ∧
    (∃ t, exec (.sir 0 [] []) (idleIn .shiftDR) = .next t) ∧
    (∃ t, exec (.nextState .invalid false) (idleIn .shiftDR) = .next t ∧
    t.fault ≠ none) ∧
    moves .getTdo = false ∧
    drivesTdi .getTdo = false ∧
    (∀ n, Instr.getTdo ≠ .updateState n) ∧
    (∀ v, Instr.getTdo ≠ .setTms v) ∧
    (∀ n, Instr.getTdo ≠ .pulseTck n) ∧
    ∃ t, exec .getTdo (idleIn .shiftDR) = .next t :=
  ⟨nofun, nofun, rfl, ⟨_, rfl⟩, ⟨_, rfl, Option.some_ne_none _⟩, rfl, rfl, nofun, nofun, nofun, _, rfl⟩

/-- A stream. -/
theorem witness_StreamNeverFaults : (streamIn .shiftDR [';'] 0).inStream := ⟨rfl, rfl, rfl⟩

/-- A stream of no bytes. -/
theorem witness_StreamEnds : (streamIn .shiftDR [] 0).inStream := ⟨rfl, rfl, rfl⟩

/-- Whitespace left, and nothing left. -/
theorem witness_StreamEndsNormally :
    (streamIn .shiftDR [';', ' ', '\n'] 1).inStream ∧
    ((streamIn .shiftDR [';', ' ', '\n'] 1).text.drop 1).all isSpace = true ∧
    ((streamIn .shiftDR [';'] 1).text.drop 1).all isSpace = true := ⟨⟨rfl, rfl, rfl⟩, by decide, by decide⟩

/-- A poll that cancels. -/
theorem witness_CancelledStreamEnds :
    { streamIn .shiftDR [';'] 0 with cancel := true }.inStream ∧
    { streamIn .shiftDR [';'] 0 with cancel := true }.cancel = true ∧
    ((streamIn .shiftDR [';'] 0).text.drop 0).all isSpace = false := ⟨⟨rfl, rfl, rfl⟩, rfl, by decide⟩

/-- An empty command. -/
theorem witness_MalformedCommandEndsStream :
    (streamIn .shiftDR [';'] 0).inStream ∧
    (streamIn .shiftDR [';'] 0).cancel = false ∧
    (streamIn .shiftDR [';'] 0).text.drop 0 = [] ++ semicolon :: [] ∧
    semicolon ∉ ([] : List Byte) ∧
    decodeCommand Config.optionalFields [] = .error .emptyCommand :=
  ⟨⟨rfl, rfl, rfl⟩, rfl, by decide, by decide, rfl⟩

/-- One token byte. -/
theorem witness_UnterminatedCommandEndsStream :
    (streamIn .shiftDR ['X'] 0).inStream ∧
    (streamIn .shiftDR ['X'] 0).cancel = false ∧
    ((streamIn .shiftDR ['X'] 0).text.drop 0).all isSpace = false ∧
    semicolon ∉ (streamIn .shiftDR ['X'] 0).text.drop 0 := ⟨⟨rfl, rfl, rfl⟩, rfl, by decide, by decide⟩

/-- After reset. -/
theorem witness_SvfRunStartsTheStream : State.reset.ready ∧ State.reset.call = none := ⟨⟨rfl, rfl⟩, rfl⟩

/-- A route, and a longer string to the same state. -/
theorem witness_RoutesAreShortestAndUnique :
    walk .runTestIdle (route .runTestIdle .shiftIR) = .shiftIR ∧
    walk .runTestIdle [false, true, true, false, false] = .shiftIR := by decide

/-- After reset. -/
theorem witness_TransitionTableIsTheSpecs : State.reset.ready := reset_ready

/-- After reset. -/
theorem witness_TableOperationsAnswer : State.reset.ready := reset_ready

/-- A state that is no successor (T8). -/
theorem witness_GotoNextStateMovesOneStep :
    (idleIn .runTestIdle).ready ∧
    next (idleIn .runTestIdle).tap false ≠ .shiftDR ∧
    next (idleIn .runTestIdle).tap true ≠ .shiftDR := ⟨⟨rfl, rfl⟩, by decide, by decide⟩

/-- Any state. -/
theorem witness_GotoStateTakesTheRoute : (idleIn .exit2IR).ready := idle_ready _

/-- T14. -/
theorem witness_GoThruTakesEachState :
    (idleIn .testLogicReset).ready ∧
    next (walk .testLogicReset [false, true]) false ≠ .shiftDR ∧
    next (walk .testLogicReset [false, true]) true ≠ .shiftDR := ⟨⟨rfl, rfl⟩, by decide, by decide⟩

/-- Any state. -/
theorem witness_UpdateStateMovesTheTracker : (idleIn .captureIR).ready := idle_ready _

/-- Any state. -/
theorem witness_InitTapReachesReset : (idleIn .captureIR).ready := idle_ready _

/-- Any state. -/
theorem witness_PinPrimitives : (idleIn .captureIR).ready := idle_ready _

/-- Any state. -/
theorem witness_PulseTckAddsPulses : (idleIn .captureIR).ready := idle_ready _

/-- A Shift state, and another (S5). -/
theorem witness_SendRecvShifts :
    (idleIn .shiftDR).ready ∧
    (idleIn .shiftDR).tap ∈ [TapState.shiftDR, .shiftIR] ∧
    (idleIn .exit1DR).ready ∧
    (idleIn .exit1DR).tap ∉ [TapState.shiftDR, .shiftIR] := ⟨idle_ready _, by decide, idle_ready _, by decide⟩

/-- A start state, and another (S11). -/
theorem witness_LoadIrThenDrRunsBothPhases :
    (idleIn .pauseIR).ready ∧
    (idleIn .pauseIR).tap ∈ [TapState.runTestIdle, .testLogicReset, .pauseDR, .pauseIR] ∧
    (idleIn .shiftDR).ready ∧
    (idleIn .shiftDR).tap ∉ [TapState.runTestIdle, .testLogicReset, .pauseDR, .pauseIR] :=
  ⟨idle_ready _, by decide, idle_ready _, by decide⟩

/-- Each clause: one bit and no bit, from both start states; 1 + 1 + 10 pulses, and one (42_scan.md R240). -/
theorem witness_LoadIrThenDrPulseCount :
    (idleIn .runTestIdle).ready ∧
    (idleIn .testLogicReset).ready ∧
    TapState.runTestIdle ∈ [TapState.runTestIdle, .testLogicReset, .pauseDR, .pauseIR] ∧
    TapState.testLogicReset ∈ [TapState.runTestIdle, .testLogicReset, .pauseDR, .pauseIR] ∧
    0 < [true].length ∧
    0 < max [true].length ([] : Bitstream).length ∧
    max ([] : Bitstream).length ([] : Bitstream).length = 0 ∧
    (∃ t, exec (.loadIrThenDr [true] [true] []) (idleIn .runTestIdle) = .next t ∧
    (newPulses (idleIn .runTestIdle) t).length = 12) ∧
    ∃ t, exec (.loadIrThenDr [] [] []) (idleIn .testLogicReset) = .next t ∧
    (newPulses (idleIn .testLogicReset) t).length = 1 :=
  ⟨idle_ready _, idle_ready _, by decide, by decide, by decide, by decide, by decide, ⟨_, rfl, by decide⟩, _,
    rfl, by decide⟩

/-- After reset; `test_count` and `test_count_fails` meet the two clauses with a chain that answers so. -/
theorem witness_DeviceCountIsFirstZero : State.reset.ready := reset_ready

/-- After reset; `test_idcodes` and `test_idcodes_none` meet the three clauses with a chain that answers so. -/
theorem witness_IdcodesAreTheCapturedBits : State.reset.ready := reset_ready

/-- After reset. -/
theorem witness_IgnoredCommandsDoNothing : State.reset.fault = none := rfl

/-- After reset. -/
theorem witness_EndStatesAreWritten : State.reset.fault = none := rfl

/-- After reset. -/
theorem witness_StateVisitsEachState : State.reset.fault = none := rfl

/-- After reset. -/
theorem witness_HeadersAndTrailersAreLoaded : State.reset.fault = none := rfl

/-- After reset. -/
theorem witness_SirShiftsThePayload : State.reset.fault = none := rfl

/-- After reset. -/
theorem witness_SdrShiftsThePayload : State.reset.fault = none := rfl

/-- A stable state that 0 holds, the one that 1 holds, and one that is not stable. -/
theorem witness_RuntestPulses :
    (idleIn .pauseDR).fault = none ∧
    stable (idleIn .pauseDR).tap = true ∧
    stable .testLogicReset = true ∧
    stable .exit1DR = false := ⟨rfl, by decide, by decide, by decide⟩

/-- After reset. -/
theorem witness_NewAndLength : State.reset.ready := reset_ready

/-- After reset. -/
theorem witness_ResizeKeepsLowBits : State.reset.ready := reset_ready

/-- After reset. -/
theorem witness_ConcatPutsFirstHigh : State.reset.ready := reset_ready

/-- After reset. -/
theorem witness_ShiftRightFillsZeros : State.reset.ready := reset_ready

/-- After reset. -/
theorem witness_ReverseAndEqual : State.reset.ready := reset_ready

/-- After reset. -/
theorem witness_SerialisationsRoundTrip : State.reset.ready := reset_ready

/-- After reset. -/
theorem witness_HexTextIsRightAligned : State.reset.ready := reset_ready

/-- The last index, and the first beyond it. -/
theorem witness_GetReadsOrFaults :
    State.reset.ready ∧
    3 < (bs 4 6).length ∧
    (bs 4 6).length ≤ 4 := ⟨reset_ready, by decide, by decide⟩

/-- The clauses of `set_bit` and `set_bits` at the length. -/
theorem witness_SetBitsWriteUpToTheFault :
    State.reset.ready ∧
    2 < (bs 3 0).length ∧
    (bs 3 0).length ≤ 3 ∧
    2 + [true].length ≤ (bs 3 0).length ∧
    [true, true] ≠ [] ∧
    (bs 3 0).length < 2 + [true, true].length :=
  ⟨reset_ready, by decide, by decide, by decide, by decide, by decide⟩

/-- Equal and unequal lengths. -/
theorem witness_XorOfEqualLengths :
    State.reset.ready ∧
    (bs 4 12).length = (bs 4 10).length ∧
    (bs 1 1).length ≠ (bs 2 1).length := ⟨reset_ready, by decide, by decide⟩

/-- Just enough, and one bit more. -/
theorem witness_PackedInputIsLsbFirst :
    State.reset.ready ∧
    (8 + 7) / 8 ≤ [0xFF#8].length ∧
    [0xFF#8].length < (9 + 7) / 8 ∧
    (16 + 15) / 16 ≤ [0x1234#16].length ∧
    [0x1234#16].length < (17 + 15) / 16 := ⟨reset_ready, by decide, by decide, by decide, by decide⟩

/-- Just enough, and one bit more. -/
theorem witness_StreamsConsumeWhatTheyNeed :
    State.reset.ready ∧
    (4 + 3) / 4 ≤ (hexDigits (chars ['x', '1'])).length ∧
    (hexDigits (chars ['x', '1'])).length < (5 + 3) / 4 ∧
    (8 + 7) / 8 ≤ [0x03#8].length ∧
    [0x03#8].length < (9 + 7) / 8 := ⟨reset_ready, by decide, by decide, by decide, by decide⟩

/-- B28. -/
theorem witness_BinaryTextIsMsbFirst :
    State.reset.ready ∧
    (chars ['0', '1']).all (fun c => c == 0x30#8 || c == 0x31#8) = true ∧
    (0x78#8 : Byte) ≠ 0x30#8 ∧
    (0x78#8 : Byte) ≠ 0x31#8 := ⟨reset_ready, by decide, by decide, by decide⟩

/-- An operation and a command, each with a next state. -/
theorem witness_OutcomeIsNotRead :
    (Instr.getTdo).isSvf = false ∧
    (∃ t, exec .getTdo State.reset = .next t) ∧
    (Instr.trst []).isSvf = true ∧
    ∃ t, exec (.trst []) State.reset = .next t := ⟨rfl, ⟨_, rfl⟩, rfl, _, rfl⟩

end Sys2Proof.Tests
end

