-- ==== Sys2Proof/Proofs/State.lean ====
section
/-!
The registers of the block right after it is created (10_state.md R46, R47).
-/
namespace Sys2Proof.Proofs

/-- Settles O12: each conjunct reads one field of `State.reset`, whose values are the reset column of R46. The pin
levels are opaque constants there, and none of these fields is computed from them. -/
theorem resetRegisters : Obligations.ResetRegisters :=
  ⟨rfl, rfl, rfl, rfl, rfl, rfl, rfl, rfl, rfl, rfl, rfl, rfl⟩

end Sys2Proof.Proofs
end

/-!
The Bitstream operations (40_bitstream.md). For each call that branches, one lemma for each of its cases says what the
call answers; a statement then joins these with the laws of the values (Laws/Bitstream).
-/
namespace Sys2Proof.Proofs
open Machine

/-! ## Length, bits and writes (R132 to R137) -/

/-- Settles O47: `new(n)` is `n` copies of 0. -/
theorem newAndLength : Obligations.NewAndLength := by
  intro n b s h
  refine ⟨⟨zeros n, onCall_ready _ _ h, zeros_length n, fun i hi => ?_⟩, onCall_ready _ _ h⟩
  exact List.getElem?_replicate_of_lt hi

/-- Settles O48, by the two laws of `resizeBits`. -/
theorem resizeKeepsLowBits : Obligations.ResizeKeepsLowBits := fun b m s h =>
  ⟨resizeBits b m, show execResize b m s = _ from onCall_ready _ _ h, resizeBits_length b m,
    resizeBits_getElem? b m⟩

/-- Settles O49: the meaning branches on `b[i]?`, which is a bit just below the length. -/
theorem getReadsOrFaults : Obligations.GetReadsOrFaults := by
  intro b i s h
  have call : exec (.get b i) s = _ := show execGet b i s = _ from onCall_ready _ _ h
  refine ⟨fun hi => ?_, fun hi => ?_⟩
  · have hb : b[i]? = some b[i] := List.getElem?_eq_getElem hi
    rw [hb] at call
    exact ⟨b[i], hb, call⟩
  · rw [List.getElem?_eq_none hi] at call
    exact call

section
variable {b : Bitstream} {i : Nat} {seq : List Bit} {s : State}

theorem exec_setBits (h : s.ready) : exec (.setBits b i seq) s =
    .next (replyOrFault (indexFault b (writeBits b i seq).2) .none (setHolder (writeBits b i seq).1 s)) :=
  show execSetBits b i seq s = _ from onCall_ready _ _ h

theorem exec_setBits_inside (h : s.ready) (hw : seq = [] ∨ i + seq.length ≤ b.length) :
    exec (.setBits b i seq) s =
      .next { s with holder := (writeBits b i seq).1, outcome := some (.ok .none) } := by
  rw [exec_setBits h, writeBits_stop, if_pos hw]
  rfl

theorem exec_setBits_outside (h : s.ready) (hne : seq ≠ []) (hw : b.length < i + seq.length) :
    exec (.setBits b i seq) s = .next { s with
      holder := (writeBits b i seq).1
      fault := some (.indexOutOfRange (max i b.length) b.length), outcome := none } := by
  rw [exec_setBits h, writeBits_stop, if_neg (not_or.2 ⟨hne, Nat.not_le.2 hw⟩)]
  rfl

theorem exec_setBit_eq_setBits (v : Bit) : exec (.setBit b i v) s = exec (.setBits b i [v]) s := rfl

theorem writeBits_outside (v : Bit) (hi : b.length ≤ i) : (writeBits b i [v]).1 = b := by
  rw [writeBits, if_neg (Nat.not_lt.2 hi)]

end

/-- Settles O50: `set_bit` is `set_bits` of one bit, and where a write stops decides between the return and the
fault. -/
theorem setBitsWriteUpToTheFault : Obligations.SetBitsWriteUpToTheFault := by
  intro b i v seq s h
  refine ⟨fun hi => ⟨(writeBits b i [v]).1, ?_, writeBits_length .., fun j hj => ?_⟩, fun hi => ?_,
    (writeBits b i seq).1, writeBits_length .., writeBits_getElem? b i seq, exec_setBits_inside h,
    exec_setBits_outside h⟩
  · rw [exec_setBit_eq_setBits]
    exact exec_setBits_inside h (.inr hi)
  · rw [writeBits_getElem? b i [v] j hj]
    by_cases hji : j = i
    · subst hji
      simp
    · rw [if_neg (by simp; omega), if_neg hji]
  · rw [exec_setBit_eq_setBits, exec_setBits_outside h (List.cons_ne_nil v []) (Nat.lt_succ_of_le hi),
      writeBits_outside v hi, Nat.max_eq_left hi]

/-! ## Values from values (R138 to R142) -/

section
variable {a b : Bitstream} {s : State}

theorem exec_xor_equal (h : s.ready) (hl : a.length = b.length) :
    exec (.xor a b) s = .next { s with outcome := some (.ok (.bits (xorBits a b))) } :=
  (show execXor a b s = _ from onCall_ready _ _ h).trans (congrArg _ (if_pos hl))

theorem exec_xor_unequal (h : s.ready) (hl : a.length ≠ b.length) : exec (.xor a b) s =
    .next { s with fault := some (.lengthMismatch a.length b.length), outcome := none } :=
  (show execXor a b s = _ from onCall_ready _ _ h).trans (congrArg _ (if_neg hl))

end

/-- Settles O51: the result has the length of both operands, so that it can be combined with `b` again. -/
theorem xorOfEqualLengths : Obligations.XorOfEqualLengths := by
  intro a b s h
  refine ⟨fun hl => ?_, exec_xor_unequal h⟩
  have hlen := xorBits_length a b hl
  have back := exec_xor_equal (a := xorBits a b) h (hlen.trans hl)
  rw [xorBits_xorBits a b hl] at back
  exact ⟨xorBits a b, exec_xor_equal h hl, hlen, xorBits_getElem? a b hl, back⟩

/-- Settles O52: `concat(a, b)` is the list of `b`'s bits followed by `a`'s. -/
theorem concatPutsFirstHigh : Obligations.ConcatPutsFirstHigh := fun a b _ h =>
  ⟨b ++ a, onCall_ready _ _ h, by rw [List.length_append, Nat.add_comm], List.take_left, List.drop_left,
    val_append a b⟩

/-- Settles O53, by the two laws of `shiftRightBits`. -/
theorem shiftRightFillsZeros : Obligations.ShiftRightFillsZeros := fun b k s h =>
  ⟨shiftRightBits b k, show execShiftRight b k s = _ from onCall_ready _ _ h, shiftRightBits_length b k,
    shiftRightBits_getElem? b k⟩

theorem eq_iff_length_and_bits (a b : Bitstream) :
    a = b ↔ a.length = b.length ∧ ∀ i, i < a.length → a[i]? = b[i]? := by
  refine ⟨fun h => h ▸ ⟨rfl, fun _ _ => rfl⟩, fun ⟨hl, hb⟩ => List.ext_getElem?' fun i hi => hb i ?_⟩
  rwa [← hl, max_self] at hi

theorem exec_reverse (b : Bitstream) {s : State} (h : s.ready) :
    exec (.reverse b) s = .next { s with holder := b.reverse, outcome := some (.ok .none) } :=
  show execReverse b s = _ from onCall_ready _ _ h

/-- Settles O54: bit `i` of the reversed list is bit `length - 1 - i`, and equal lists are those that agree below
their common length. -/
theorem reverseAndEqual : Obligations.ReverseAndEqual := by
  intro a b s h
  refine ⟨⟨b.reverse, exec_reverse b h, List.length_reverse, fun i hi => List.getElem?_reverse hi, ?_⟩,
    a == b, onCall_ready _ _ h, beq_iff_eq.trans (eq_iff_length_and_bits a b)⟩
  have back := exec_reverse b.reverse h
  rwa [List.reverse_reverse] at back

/-! ## Packed input (R147, R149) -/

section
variable {n : Nat} {bytes : List Byte} {words : List Word} {s : State}

theorem exec_fromCharString_enough (h : s.ready) (hn : ceilDiv n 8 ≤ bytes.length) :
    exec (.fromCharString n bytes) s = .next { s with outcome := some (.ok (.bits (ofChars n bytes))) } :=
  (show execFromCharString n bytes s = _ from onCall_ready _ _ h).trans (congrArg _ (if_pos hn))

theorem exec_fromCharString_short (h : s.ready) (hn : bytes.length < ceilDiv n 8) :
    exec (.fromCharString n bytes) s =
      .next { s with fault := some (.shortInput bytes.length (ceilDiv n 8)), outcome := none } :=
  (show execFromCharString n bytes s = _ from onCall_ready _ _ h).trans (congrArg _ (if_neg (Nat.not_le.2 hn)))

theorem exec_fromWordString_enough (h : s.ready) (hn : ceilDiv n 16 ≤ words.length) :
    exec (.fromWordString n words) s = .next { s with outcome := some (.ok (.bits (ofWords n words))) } :=
  (show execFromWordString n words s = _ from onCall_ready _ _ h).trans (congrArg _ (if_pos hn))

theorem exec_fromWordString_short (h : s.ready) (hn : words.length < ceilDiv n 16) :
    exec (.fromWordString n words) s =
      .next { s with fault := some (.shortInput words.length (ceilDiv n 16)), outcome := none } :=
  (show execFromWordString n words s = _ from onCall_ready _ _ h).trans (congrArg _ (if_neg (Nat.not_le.2 hn)))

end

/-- Settles O57: the four cases of the length test. -/
theorem packedInputIsLsbFirst : Obligations.PackedInputIsLsbFirst := fun n bytes words _ h =>
  ⟨fun hn => ⟨ofChars n bytes, exec_fromCharString_enough h hn, ofChars_spec n bytes hn⟩,
    exec_fromCharString_short h,
    fun hn => ⟨ofWords n words, exec_fromWordString_enough h hn, ofWords_spec n words hn⟩,
    exec_fromWordString_short h⟩

/-! ## Binary text (R152, R153) -/

theorem toBinary_length (b : Bitstream) : (toBinary b).length = b.length := by
  rw [toBinary, List.length_map, List.length_reverse]

theorem toBinary_getElem? (b : Bitstream) (j : Nat) (hj : j < b.length) :
    (toBinary b)[j]? = some (bitChar (b.getD (b.length - 1 - j) false)) := by
  have hk : b.length - 1 - j < b.length := by omega
  rw [toBinary, List.getElem?_map, List.getElem?_reverse hj, List.getD_eq_getElem?_getD,
    List.getElem?_eq_getElem hk, Option.map_some, Option.getD_some]

theorem toBinary_all_binary (b : Bitstream) :
    (toBinary b).all (fun c => c == 0x30#8 || c == 0x31#8) = true := by
  have bit : ∀ v : Bit, (bitChar v == 0x30#8 || bitChar v == 0x31#8) = true := by decide
  rw [toBinary, List.all_map, List.all_eq_true]
  exact fun v _ => bit v

theorem ofBinary_length (text : List Byte) : (ofBinary text).length = text.length := by
  rw [ofBinary, List.length_reverse, List.length_map]

theorem ofBinary_getElem? (text : List Byte) (j : Nat) (hj : j < text.length) :
    (ofBinary text)[text.length - 1 - j]? = some (text.getD j 0 == 0x31#8) := by
  rw [ofBinary, List.getElem?_reverse (by rw [List.length_map]; omega), List.length_map,
    show text.length - 1 - (text.length - 1 - j) = j by omega, List.getElem?_map, List.getD_eq_getElem?_getD,
    List.getElem?_eq_getElem hj, Option.map_some, Option.getD_some]

theorem firstBadChar_bad {x : Byte} (h0 : x ≠ 0x30#8) (h1 : x ≠ 0x31#8) (j : Nat) (rest : List Byte) :
    firstBadChar j (x :: rest) = some (j, x) := by
  have hx : bitChar? x = none := by rw [bitChar?, if_neg h0, if_neg h1]
  rw [firstBadChar, hx, if_neg (by decide)]

section
variable {s : State} {text : List Byte}

theorem exec_fromString_of_none (h : s.ready) (hf : firstBadChar 0 text = none) :
    exec (.fromString text) s = .next { s with outcome := some (.ok (.bits (ofBinary text))) } := by
  refine (show execFromString text s = _ from onCall_ready _ _ h).trans ?_
  rw [hf]
  rfl

theorem exec_fromString_of_some (h : s.ready) {j : Nat} {x : Byte} (hf : firstBadChar 0 text = some (j, x)) :
    exec (.fromString text) s = .next { s with fault := some (.badStringChar j x), outcome := none } := by
  refine (show execFromString text s = _ from onCall_ready _ _ h).trans ?_
  rw [hf]
  rfl

theorem exec_fromString_binary (h : s.ready)
    (hbin : text.all (fun c => c == 0x30#8 || c == 0x31#8) = true) :
    exec (.fromString text) s = .next { s with outcome := some (.ok (.bits (ofBinary text))) } := by
  have hf := firstBadChar_append text 0 hbin []
  rw [List.append_nil] at hf
  exact exec_fromString_of_none h hf

theorem exec_fromString_bad (h : s.ready)
    (hbin : text.all (fun c => c == 0x30#8 || c == 0x31#8) = true) {x : Byte} (h0 : x ≠ 0x30#8)
    (h1 : x ≠ 0x31#8) (rest : List Byte) : exec (.fromString (text ++ x :: rest)) s =
      .next { s with fault := some (.badStringChar text.length x), outcome := none } := by
  refine exec_fromString_of_some h ?_
  rw [firstBadChar_append text 0 hbin, firstBadChar_bad h0 h1, Nat.zero_add]

end

/-- Settles O59: the text before a bad character is passed over, so its length is the position reported. -/
theorem binaryTextIsMsbFirst : Obligations.BinaryTextIsMsbFirst := fun b good rest _ _ h =>
  ⟨⟨toBinary b, onCall_ready _ _ h, toBinary_length b, toBinary_getElem? b⟩, fun hbin =>
    ⟨⟨ofBinary good, exec_fromString_binary h hbin, ofBinary_length good, ofBinary_getElem? good⟩,
      fun h0 h1 => exec_fromString_bad h hbin h0 h1 rest⟩⟩

/-! ## Hex text (R68, R144, R145) -/

theorem toHex_length (p : Nat → Bit) (b : Bitstream) : (toHex p b).length = ceilDiv b.length 4 := by
  rw [toHex, List.length_map, List.length_reverse, units_length]

theorem hexDigitByte_upper (d : Nibble) :
    0x30 ≤ (hexDigitByte d).toNat ∧ (hexDigitByte d).toNat ≤ 0x39 ∨
      0x41 ≤ (hexDigitByte d).toNat ∧ (hexDigitByte d).toNat ≤ 0x46 := by
  have hd : d.toNat < 16 := d.isLt
  rw [hexDigitByte, BitVec.toNat_ofNat]
  split <;> omega

theorem toHex_upper (p : Nat → Bit) (b : Bitstream) :
    ∀ c ∈ toHex p b, 0x30 ≤ c.toNat ∧ c.toNat ≤ 0x39 ∨ 0x41 ≤ c.toNat ∧ c.toNat ≤ 0x46 := by
  intro c hc
  obtain ⟨v, -, rfl⟩ := List.mem_map.1 hc
  exact hexDigitByte_upper _

/-- A text read one character further: a digit is appended to the number, any other character is skipped. -/
theorem hexValue_hexDigits_concat (text : List Byte) (c : Byte) :
    hexValue (hexDigits (text ++ [c])) = match hexDigit? c with
      | some d => 16 * hexValue (hexDigits text) + d.toNat
      | none => hexValue (hexDigits text) := by
  rw [hexDigits_append]
  cases hc : hexDigit? c with
  | none => rw [hexDigits, hexDigits, List.filterMap_cons_none hc, List.filterMap_nil, List.append_nil]
  | some d => rw [hexDigits, hexDigits, List.filterMap_cons_some hc, List.filterMap_nil, hexValue_concat]

/-- Settles O56: the field is `hexValue` cut to `n` bits, and that number is pinned down digit by digit. -/
theorem hexTextIsRightAligned : Obligations.HexTextIsRightAligned := fun n text c _ h =>
  ⟨⟨ofHex n text, onCall_ready _ _ h, ofHexDigits_length n _, val_ofHexDigits n _⟩,
    hexValue_hexDigits_concat text c, rfl⟩

/-! ## Serialisations (R143 to R148, R155) -/

theorem toChars_length (p : Nat → Bit) (b : Bitstream) : (toChars p b).length = ceilDiv b.length 8 := by
  rw [toChars, List.length_map, units_length]

theorem toWords_length (p : Nat → Bit) (b : Bitstream) : (toWords p b).length = ceilDiv b.length 16 := by
  rw [toWords, List.length_map, units_length]

/-- The four serialisations read back by their inverses, in any later ready state and whatever the padding. -/
theorem exec_readBack (p : Nat → Bit) (b : Bitstream) (u : State) (hu : u.ready) :
    exec (.fromHexString b.length (toHex p b)) u = .next { u with outcome := some (.ok (.bits b)) } ∧
    exec (.fromCharString b.length (toChars p b)) u = .next { u with outcome := some (.ok (.bits b)) } ∧
    exec (.fromWordString b.length (toWords p b)) u = .next { u with outcome := some (.ok (.bits b)) } ∧
    exec (.fromString (toBinary b)) u = .next { u with outcome := some (.ok (.bits b)) } := by
  obtain ⟨hbinary, hpadded⟩ := roundTrips_all b
  obtain ⟨hhex, hchars, hwords⟩ := hpadded p
  have hex : exec (.fromHexString b.length (toHex p b)) u =
      .next { u with outcome := some (.ok (.bits (ofHex b.length (toHex p b)))) } := onCall_ready _ _ hu
  have chars := exec_fromCharString_enough hu (toChars_length p b).ge
  have words := exec_fromWordString_enough hu (toWords_length p b).ge
  have binary := exec_fromString_binary hu (toBinary_all_binary b)
  rw [hhex] at hex
  rw [hchars] at chars
  rw [hwords] at words
  rw [hbinary] at binary
  exact ⟨hex, chars, words, binary⟩

/-- Settles O55. The padding bits are one arbitrary draw, which no reading back depends on. -/
theorem serialisationsRoundTrip : Obligations.SerialisationsRoundTrip := by
  intro b s u h hu
  let p := paddingOf Config.actual s b
  obtain ⟨hex, chars, words, binary⟩ := exec_readBack p b u hu
  exact ⟨⟨toHex p b, show execToHexString b s = _ from onCall_ready _ _ h, toHex_length p b, toHex_upper p b, hex⟩,
    ⟨toChars p b, show execToCharString b s = _ from onCall_ready _ _ h, toChars_length p b, chars⟩,
    ⟨toWords p b, show execToWordString b s = _ from onCall_ready _ _ h, toWords_length p b, words⟩,
    toBinary b, onCall_ready _ _ h, toBinary_length b, binary⟩

/-! ## Streams (R150, R151) -/

section
variable {n : Nat} {reader : List Byte} {v : Bit} {s : State}

theorem exec_fromHexStream_enough (h : s.ready) {ds : List Nibble} {rest : List Byte}
    (ht : takeHexDigits (ceilDiv n 4) reader = (ds, rest)) (hd : ds.length = ceilDiv n 4) :
    exec (.fromHexStream n reader v) s = .next { s with
      reader := rest, outcome := some (.ok (.bits (reverseIf v (ofHexDigits n ds)))) } := by
  refine (show execFromHexStream n reader v s = _ from onCall_ready _ _ h).trans ?_
  dsimp only
  rw [ht, if_neg hd.ge.not_gt]
  rfl

theorem exec_fromHexStream_short (h : s.ready) (hd : (hexDigits reader).length < ceilDiv n 4) :
    exec (.fromHexStream n reader v) s = .next { s with
      reader := [], outcome := some (.error (.truncatedStream n (hexDigits reader).length)) } := by
  refine (show execFromHexStream n reader v s = _ from onCall_ready _ _ h).trans ?_
  dsimp only
  rw [takeHexDigits_short _ _ hd, if_pos hd]
  rfl

theorem exec_fromCharStream_enough (h : s.ready) (hn : ceilDiv n 8 ≤ reader.length) :
    exec (.fromCharStream n reader v) s = .next { s with
      reader := reader.drop (ceilDiv n 8)
      outcome := some (.ok (.bits (reverseIf v (ofChars n (reader.take (ceilDiv n 8)))))) } := by
  refine (show execFromCharStream n reader v s = _ from onCall_ready _ _ h).trans ?_
  dsimp only
  rw [List.length_take_of_le hn, if_neg (Nat.lt_irrefl _)]
  rfl

theorem exec_fromCharStream_short (h : s.ready) (hn : reader.length < ceilDiv n 8) :
    exec (.fromCharStream n reader v) s = .next { s with
      reader := [], outcome := some (.error (.truncatedStream n reader.length)) } := by
  refine (show execFromCharStream n reader v s = _ from onCall_ready _ _ h).trans ?_
  dsimp only
  rw [List.take_of_length_le hn.le, List.drop_of_length_le hn.le, if_pos hn]
  rfl

end

/-- Only the bytes that hold the first `n` bits are read. -/
theorem ofChars_take_needed (n : Nat) (reader : List Byte) (hn : ceilDiv n 8 ≤ reader.length) :
    (ofChars n (reader.take (ceilDiv n 8))).length = n ∧
    ∀ i, i < n → (ofChars n (reader.take (ceilDiv n 8)))[i]? =
      some ((reader.getD (i / 8) 0).toNat.testBit (i % 8)) := by
  obtain ⟨hlen, hbits⟩ := ofChars_spec n (reader.take (ceilDiv n 8)) (List.length_take_of_le hn).ge
  refine ⟨hlen, fun i hi => ?_⟩
  have hneed : i / 8 < ceilDiv n 8 := by rw [ceilDiv]; omega
  rw [hbits i hi, List.getD_eq_getElem?_getD, List.getElem?_take_of_lt hneed, ← List.getD_eq_getElem?_getD]

/-- Settles O58: the reader splits after the last digit needed, or after the last byte needed. -/
theorem streamsConsumeWhatTheyNeed : Obligations.StreamsConsumeWhatTheyNeed := by
  intro n reader v s h
  refine ⟨fun hd => ?_, exec_fromHexStream_short h, fun hn => ?_, exec_fromCharStream_short h⟩
  · obtain ⟨used, rest, hr, ht, hlen, hlast⟩ := takeHexDigits_enough _ reader hd
    exact ⟨used, rest, ofHexDigits n (hexDigits used), hr, hlen, hlast, ofHexDigits_length n _,
      val_ofHexDigits n _, exec_fromHexStream_enough h ht hlen⟩
  · obtain ⟨hlen, hbits⟩ := ofChars_take_needed n reader hn
    exact ⟨_, hlen, hbits, exec_fromCharStream_enough h hn⟩

end Sys2Proof.Proofs

/-!
The TAP (41_tap.md). The table of routes is checked once against the transition table, one pulse at a time; the rest of
its laws are of TMS strings in general. A call that navigates follows one TMS string, up to the element it faults on.
-/
namespace Sys2Proof.Proofs
open Machine

/-! ## The path table (R193, R194) -/

theorem statesFrom_getLastD (a : TapState) (ts : List Bit) : (statesFrom a ts).getLastD a = walk a ts := by
  induction ts generalizing a with
  | nil => rfl
  | cons t ts ih => rw [statesFrom, List.getLastD_cons, ih, walk_cons]

theorem statesFrom_adjacent (a x y : TapState) (ts : List Bit) (k : Nat)
    (hx : (a :: statesFrom a ts)[k]? = some x) (hy : (a :: statesFrom a ts)[k + 1]? = some y) :
    y = next x false ∨ y = next x true := by
  induction ts generalizing a k with
  | nil => cases hy
  | cons t ts ih =>
    cases k with
    | zero =>
      cases hx
      cases hy
      cases t
      · exact .inl rfl
      · exact .inr rfl
    | succ k => exact ih (next a t) k hx hy

/-- A state that a TMS string enters is where a non-empty part of it, from the first pulse on, leads. -/
theorem split_of_mem_statesFrom {a b : TapState} {ts : List Bit} (h : b ∈ statesFrom a ts) :
    ∃ us vs, ts = us ++ vs ∧ us ≠ [] ∧ walk a us = b := by
  induction ts generalizing a with
  | nil => cases h
  | cons t ts ih =>
    rcases List.mem_cons.1 h with rfl | h
    · exact ⟨[t], ts, rfl, List.cons_ne_nil t [], rfl⟩
    · obtain ⟨us, vs, rfl, -, hw⟩ := ih h
      exact ⟨t :: us, vs, rfl, List.cons_ne_nil t us, hw⟩

/-- A shortest TMS string visits no state twice: without the pulses between the two visits it would be shorter. -/
theorem nodup_of_shortest (a : TapState) (ts : List Bit)
    (shortest : ∀ us, walk a us = walk a ts → ts.length ≤ us.length) : (a :: statesFrom a ts).Nodup := by
  induction ts generalizing a with
  | nil => exact List.nodup_singleton a
  | cons t ts ih =>
    refine List.nodup_cons.2 ⟨fun hmem => ?_, ih (next a t) fun us hus => ?_⟩
    · obtain ⟨us, vs, hsplit, hne, hback⟩ := split_of_mem_statesFrom hmem
      have hle := shortest vs (by rw [hsplit, walk_append, hback])
      have hpos := List.length_pos_iff.2 hne
      rw [hsplit, List.length_append] at hle
      omega
    · exact Nat.le_of_succ_le_succ (shortest (t :: us) hus)

/-- The path table against the transition table, one pulse at a time: a pulse is the first of the route, whose rest is
the route from there, or it comes no nearer to the end. -/
theorem route_first_pulse (a d : TapState) (t : Bit) :
    route a d = t :: route (next a t) d ∨ (route a d).length ≤ (route (next a t) d).length := by
  cases a <;> cases t <;> cases d <;> decide

/-- A TMS string from `a` to `d` is the route, or longer. -/
theorem eq_route_or_longer (a d : TapState) (ts : List Bit) (h : walk a ts = d) :
    ts = route a d ∨ (route a d).length < ts.length := by
  induction ts generalizing a with
  | nil =>
    subst h
    exact .inl (route_self a).symm
  | cons t ts ih =>
    rcases route_first_pulse a d t with hfirst | hfar <;> rcases ih (next a t) h with rfl | hlong
    · exact .inl hfirst.symm
    · exact .inr (by rw [hfirst]; exact Nat.succ_lt_succ hlong)
    · exact .inr (Nat.lt_succ_of_le hfar)
    · exact .inr (by rw [List.length_cons]; omega)

/-- Settles O26: the paths are those of TMS strings, so that each state is entered from the one before, and the routes
are the shortest strings, so that no state is visited twice. -/
theorem routesAreShortestAndUnique : Obligations.RoutesAreShortestAndUnique := by
  intro a d
  refine ⟨walk_route a d, (statesFrom_getLastD a _).trans (walk_route a d),
    fun k x y => statesFrom_adjacent a x y _ k, nodup_of_shortest a _ fun us hus => ?_, eq_route_or_longer a d⟩
  rw [walk_route] at hus
  rcases eq_route_or_longer a d us hus with rfl | hlong
  · exact Nat.le_refl _
  · exact Nat.le_of_lt hlong

/-! ## Pulses added by an operation on the transport -/

section
variable {s t : State} {evs : List PulseEvent}

theorem newTms_of_drives (h : Drives s t evs) : newTms s t = evs.map PulseEvent.tms :=
  congrArg _ h.newPulses_eq

theorem newTdi_of_drives (h : Drives s t evs) : newTdi s t = evs.map PulseEvent.tdi :=
  congrArg _ h.newPulses_eq

theorem transportOnly_reply (v : Value) (h : transportOnly s t) :
    transportOnly { s with outcome := some (.ok v) } (reply v t) := congrArg (reply v) h

theorem transportOnly_raiseFault (f : FaultCode) (h : transportOnly s t) :
    transportOnly { s with fault := some f, outcome := none } (raiseFault f t) := congrArg (raiseFault f) h

/-- The return value leaves the pulses as they are. -/
theorem reply_of_drives (v : Value) (h : Drives s t evs) :
    traceGrows s (reply v t) ∧ newTms s (reply v t) = evs.map PulseEvent.tms ∧
    newTdi s (reply v t) = evs.map PulseEvent.tdi ∧
    transportOnly { s with outcome := some (.ok v) } (reply v t) :=
  ⟨h.grows, (newTms_of_drives h :), (newTdi_of_drives h :), transportOnly_reply v h.only⟩

end

/-- All that following a TMS string does. The equations are of single fields, so they hold as well after the call's
outcome or fault is written. -/
theorem followRoute_effect (c : Params) (ts : List Bit) (s : State) :
    (followRoute c ts s).tap = walk s.tap ts ∧ traceGrows s (followRoute c ts s) ∧
    newTms s (followRoute c ts s) = ts ∧ newTdi s (followRoute c ts s) = List.replicate ts.length s.tdi ∧
    (followRoute c ts s).tms = ts.getLastD s.tms ∧ (followRoute c ts s).tdi = s.tdi ∧
    transportOnly s (followRoute c ts s) := by
  obtain ⟨evs, hm, tms, tdi, tmsLeft, tdiLeft⟩ := followRoute_spec c ts s
  exact ⟨by rw [hm.tap, tms], hm.grows, (newTms_of_drives hm.toDrives).trans tms,
    (newTdi_of_drives hm.toDrives).trans tdi, tmsLeft, tdiLeft, hm.only⟩

/-! ## Navigation (R199 to R203) -/

/-- From state `a` the target `x` is a fault: `Invalid`, or no successor of `a` (R199). -/
def refusedTarget (a : TapState) (x : StateOperand) (f : FaultCode) : Prop :=
  x = .invalid ∧ f = .invalidState ∨
    ∃ d, x = .state d ∧ next a false ≠ d ∧ next a true ≠ d ∧ f = .illegalTransition a d

theorem gotoNext_refused (c : Params) {x : StateOperand} {f : FaultCode} {s : State}
    (hx : refusedTarget s.tap x f) : gotoNext c x s = (s, some f) := by
  rcases hx with ⟨rfl, rfl⟩ | ⟨d, rfl, h0, h1, rfl⟩
  · rfl
  · rw [gotoNext, levelTo, if_neg h0, if_neg h1]

theorem goThru_singleton (c : Params) (x : StateOperand) (s : State) : goThru c [x] s = gotoNext c x s := by
  rw [goThru]
  rcases gotoNext c x s with ⟨u, _ | f⟩ <;> rfl

section
variable {s : State}

theorem exec_goThru (seq : List StateOperand) (h : s.ready) : exec (.goThruTapSequence seq) s =
    .next (replyOrFault (goThru Config.actual seq s).2 .none (goThru Config.actual seq s).1) :=
  show execGoThruTapSequence seq s = _ from onCall_ready _ _ h

theorem exec_goThru_legal (ts : List Bit) (h : s.ready) :
    exec (.goThruTapSequence ((statesFrom s.tap ts).map .state)) s =
      .next (reply .none (followRoute Config.actual ts s)) := by
  have hgo := goThru_statesFrom Config.actual ts [] s
  rw [List.append_nil] at hgo
  rw [exec_goThru _ h, hgo]
  rfl

theorem exec_goThru_refused (ts : List Bit) (rest : List StateOperand) {x : StateOperand} {f : FaultCode}
    (h : s.ready) (hx : refusedTarget (walk s.tap ts) x f) :
    exec (.goThruTapSequence ((statesFrom s.tap ts).map .state ++ x :: rest)) s =
      .next (raiseFault f (followRoute Config.actual ts s)) := by
  rw [← (followRoute_effect Config.actual ts s).1] at hx
  rw [exec_goThru _ h, goThru_statesFrom, goThru, gotoNext_refused _ hx]
  rfl

/-- `goto_next_state` is `go_thru_tap_sequence` of one element (R201). -/
theorem exec_gotoNextState_eq_goThru (x : StateOperand) (h : s.ready) :
    exec (.gotoNextState x) s = exec (.goThruTapSequence [x]) s := by
  rw [exec_goThru _ h, goThru_singleton]
  exact show execGotoNextState x s = _ from onCall_ready _ _ h

theorem exec_gotoNextState_refused {x : StateOperand} {f : FaultCode} (h : s.ready) (hx : refusedTarget s.tap x f) :
    exec (.gotoNextState x) s = .next { s with fault := some f, outcome := none } :=
  (exec_gotoNextState_eq_goThru x h).trans (exec_goThru_refused [] [] h hx)

theorem exec_gotoState (d : TapState) (h : s.ready) :
    exec (.gotoState (.state d)) s = .next (reply .none (followRoute Config.actual (route s.tap d) s)) :=
  show execGotoState (.state d) s = _ from onCall_ready _ _ h

end

/-- Settles O30: a legal sequence is that of a TMS string, which is followed; the fault is raised where it ends. -/
theorem goThruTakesEachState : Obligations.GoThruTakesEachState := by
  intro s ts h
  obtain ⟨tap, grows, tms, tdi, tmsLeft, tdiLeft, only⟩ := followRoute_effect Config.actual ts s
  exact ⟨⟨_, exec_goThru_legal ts h, tap, grows, tms, tdi, tmsLeft, tdiLeft, transportOnly_reply .none only⟩,
    fun x rest f hx => ⟨_, exec_goThru_refused ts rest h hx, tap, grows, tms, tdi, tmsLeft, tdiLeft, rfl,
      transportOnly_raiseFault f only⟩⟩

/-- Settles O28, as the case of one element of `go_thru_tap_sequence`. -/
theorem gotoNextStateMovesOneStep : Obligations.GotoNextStateMovesOneStep := by
  intro s h
  refine ⟨fun v => ?_, fun d h0 h1 => exec_gotoNextState_refused h (.inr ⟨d, rfl, h0, h1, rfl⟩),
    exec_gotoNextState_refused h (.inl ⟨rfl, rfl⟩)⟩
  obtain ⟨tap, grows, tms, tdi, tmsLeft, tdiLeft, only⟩ := followRoute_effect Config.actual [v] s
  exact ⟨_, (exec_gotoNextState_eq_goThru _ h).trans (exec_goThru_legal [v] h), tap, tmsLeft, grows, tms, tdi,
    tdiLeft, transportOnly_reply .none only⟩

/-- Settles O29: the route is followed, and the route to the present state is empty. -/
theorem gotoStateTakesTheRoute : Obligations.GotoStateTakesTheRoute := by
  intro s h
  refine ⟨fun d => ?_, ?_, show execGotoState .invalid s = _ from onCall_ready _ _ h⟩
  · obtain ⟨tap, grows, tms, tdi, tmsLeft, tdiLeft, only⟩ := followRoute_effect Config.actual (route s.tap d) s
    exact ⟨_, exec_gotoState d h, tap.trans (walk_route s.tap d), grows, tms, tdi, tmsLeft, tdiLeft,
      transportOnly_reply .none only⟩
  · rw [exec_gotoState s.tap h, route_self]
    rfl

/-- Settles O32, by what `initTap` does to the transport. -/
theorem initTapReachesReset : Obligations.InitTapReachesReset := by
  intro s h
  obtain ⟨evs, hm, tms, tdi, tap, tmsLeft, tdiLeft⟩ := initTap_spec Config.actual s
  obtain ⟨grows, pulsesTms, pulsesTdi, only⟩ := reply_of_drives .none hm.toDrives
  exact ⟨_, show execInitTap s = _ from onCall_ready _ _ h, tap, tmsLeft, tdiLeft, grows, pulsesTms.trans tms,
    pulsesTdi.trans tdi, only⟩

/-- Settles O31: advancing the tracker is walking that many equal levels. -/
theorem updateStateMovesTheTracker : Obligations.UpdateStateMovesTheTracker := by
  intro n s h
  rw [← advance_eq_walk]
  exact show execUpdateState n s = _ from onCall_ready _ _ h

/-! ## The table operations (R191, R197, R198, R204) -/

section
variable {s : State}

theorem exec_nextState (a : TapState) (v : Bit) (h : s.ready) :
    exec (.nextState (.state a) v) s = .next { s with outcome := some (.ok (.state (next a v))) } :=
  show execNextState (.state a) v s = _ from onCall_ready _ _ h

theorem exec_pathOf_invalid (x : StateOperand) (h : s.ready) :
    exec (.pathOf x .invalid) s = .next { s with fault := some .invalidState, outcome := none } := by
  refine (show execPathOf x .invalid s = _ from onCall_ready _ _ h).trans ?_
  cases x <;> rfl

end

/-- Settles O27, a call's answer for each case of its operands; the self-check succeeds because every path of the table
is that of a TMS string (`pathsOk_eq_true`). -/
theorem tableOperationsAnswer : Obligations.TableOperationsAnswer := by
  intro s a d v x h
  refine ⟨exec_nextState a v h, show execNextState .invalid v s = _ from onCall_ready _ _ h,
    show execPathOf (.state a) (.state d) s = _ from onCall_ready _ _ h,
    show execPathOf .invalid x s = _ from onCall_ready _ _ h, exec_pathOf_invalid x h, ?_⟩
  rw [← pathsOk_eq_true]
  exact show execPathsOk s = _ from onCall_ready _ _ h

/-- Settles O60: `next_state` answers by `next`, and each row is `next` at the two levels. -/
theorem transitionTableIsTheSpecs : Obligations.TransitionTableIsTheSpecs := by
  intro s h row hrow
  have entries : next row.1 false = row.2.1 ∧ next row.1 true = row.2.2 := by
    revert row
    decide
  rw [exec_nextState row.1 false h, exec_nextState row.1 true h, entries.1, entries.2]
  exact ⟨rfl, rfl⟩

end Sys2Proof.Proofs

/-!
The transport and the scan engine (42_scan.md). The TDO bits that a scan captures go to the caller's in-out operand.
Writing that operand and the return value leaves the pulses as they are, so once the precondition has chosen the branch
each statement is read off the laws of the shared operations (Laws/Ops).
-/
namespace Sys2Proof.Proofs
open Machine

/-! ## Pins and pulses (R223, R232 to R238) -/

/-- Settles O33: each primitive is one update of the pin levels, or a reading of them. -/
theorem pinPrimitives : Obligations.PinPrimitives := fun s v h =>
  ⟨show execSetTck v s = _ from onCall_ready _ _ h, show execSetTms v s = _ from onCall_ready _ _ h,
    show execSetTdi v s = _ from onCall_ready _ _ h, show execGetTck s = _ from onCall_ready _ _ h,
    show execGetTms s = _ from onCall_ready _ _ h, show execGetTdi s = _ from onCall_ready _ _ h,
    tdoNow Config.actual s, show execGetTdo s = _ from onCall_ready _ _ h⟩

theorem pulses_frame (c : Params) (n : Nat) (s : State) :
    pulses c n s = { s with trace := (pulses c n s).trace, accesses := (pulses c n s).accesses } := by
  obtain ⟨_, hd, -, -, tap, tms, tdi⟩ := pulses_spec c n s
  have only := hd.only
  rwa [transportOnly, tap, tms, tdi] at only

/-- Settles O34, by what `pulses` does to the transport. -/
theorem pulseTckAddsPulses : Obligations.PulseTckAddsPulses := by
  intro n s h
  obtain ⟨evs, hd, tms, tdi, -⟩ := pulses_spec Config.actual n s
  obtain ⟨grows, pulsesTms, pulsesTdi, -⟩ := reply_of_drives .none hd
  exact ⟨_, show execPulseTck n s = _ from onCall_ready _ _ h, grows, pulsesTms.trans tms, pulsesTdi.trans tdi,
    congrArg (reply .none) (pulses_frame Config.actual n s)⟩

/-! ## The caller's in-out operand -/

section
variable {s t : State} {evs : List PulseEvent}

theorem newTdo_of_drives (h : Drives s t evs) : newTdo s t = evs.map PulseEvent.tdo :=
  congrArg _ h.newPulses_eq

theorem setHolder_drives (b : Bitstream) (h : Drives s t evs) : Drives (setHolder b s) (setHolder b t) evs :=
  ⟨congrArg (setHolder b) h.only, h.trace⟩

/-- Neither the in-out operand nor the return value changes the pulses. -/
theorem reply_setHolder_of_drives (v : Value) (b : Bitstream) (h : Drives s t evs) :
    traceGrows s (reply v (setHolder b t)) ∧ newTms s (reply v (setHolder b t)) = evs.map PulseEvent.tms ∧
    newTdi s (reply v (setHolder b t)) = evs.map PulseEvent.tdi ∧
    newTdo s (reply v (setHolder b t)) = evs.map PulseEvent.tdo ∧
    transportOnly { s with outcome := some (.ok v), holder := b } (reply v (setHolder b t)) := by
  obtain ⟨grows, tms, tdi, only⟩ := reply_of_drives v (setHolder_drives b h)
  exact ⟨grows, tms, tdi, (newTdo_of_drives h :), only⟩

end

/-! ## Scans (R225, R226, R231) -/

theorem mayScan_iff (a : TapState) : mayScan a = true ↔ a ∈ [TapState.shiftDR, .shiftIR] := by
  simp [mayScan]

section
variable {s : State} (send recv : Bitstream) (x : Bit)

theorem exec_sendRecv_shift (h : s.ready) (hs : s.tap ∈ [TapState.shiftDR, .shiftIR]) :
    exec (.sendRecvBitstream send recv x) s = .next (reply .none
      (setHolder (scan Config.actual send recv x s).1 (scan Config.actual send recv x s).2)) :=
  (show execSendRecvBitstream send recv x s = _ from onCall_ready _ _ h).trans
    (congrArg _ (if_pos ((mayScan_iff s.tap).2 hs)))

theorem exec_sendRecv_refused (h : s.ready) (hs : s.tap ∉ [TapState.shiftDR, .shiftIR]) :
    exec (.sendRecvBitstream send recv x) s =
      .next { s with fault := some (.wrongTapState s.tap), outcome := none, holder := recv } :=
  (show execSendRecvBitstream send recv x s = _ from onCall_ready _ _ h).trans
    (congrArg _ (if_neg (mt (mayScan_iff s.tap).1 hs)))

theorem scanBits_eq_nil_iff : scanBits send recv = [] ↔ max send.length recv.length = 0 := by
  rw [← List.length_eq_zero_iff, scanBits_length]

theorem scanBits_getLastD (v : Bit) : (scanBits send recv).getLastD v =
    if max send.length recv.length = 0 then v else send.getD (max send.length recv.length - 1) false := by
  rw [scanBits_eq]
  cases max send.length recv.length with
  | zero => rfl
  | succ n => simp [List.range_succ]

/-- A scan leaves TMS at its exit level and TDI at its last bit, or both where they were if it has no bit (R231). -/
theorem scan_pins (c : Params) (s : State) :
    (scan c send recv x s).2.tms = (if max send.length recv.length = 0 then s.tms else x) ∧
    (scan c send recv x s).2.tdi = (if max send.length recv.length = 0 then s.tdi
      else send.getD (max send.length recv.length - 1) false) := by
  obtain ⟨-, -, -, -, -, tms, tdi⟩ := shift_spec c x (scanBits send recv) s
  simp only [scanBits_eq_nil_iff] at tms
  exact ⟨tms, tdi.trans (scanBits_getLastD send recv s.tdi)⟩

theorem scan_tap (c : Params) (hs : s.tap ∈ [TapState.shiftDR, .shiftIR]) : (scan c send recv x s).2.tap =
    if x && max send.length recv.length != 0 then next s.tap true else s.tap := by
  obtain ⟨_, hm, tms, -⟩ := scan_moves c send recv x s
  rw [hm.tap, tms, walk_scanTms s.tap (List.mem_pair.1 hs)]

end

/-- Settles O35: `mayScan` chooses the branch; the pulses and the captured bits are those of the scan. -/
theorem sendRecvShifts : Obligations.SendRecvShifts := by
  intro send recv x s h
  refine ⟨fun hs => ?_, exec_sendRecv_refused send recv x h⟩
  obtain ⟨evs, hm, tms, tdi, captured⟩ := scan_moves Config.actual send recv x s
  obtain ⟨grows, pulsesTms, pulsesTdi, pulsesTdo, only⟩ :=
    reply_setHolder_of_drives .none (scan Config.actual send recv x s).1 hm.toDrives
  obtain ⟨tmsLeft, tdiLeft⟩ := scan_pins send recv x Config.actual s
  rw [scanBits_eq] at tdi
  rw [← pulsesTdo] at captured
  exact ⟨_, exec_sendRecv_shift send recv x h hs, grows, pulsesTms.trans tms, pulsesTdi.trans tdi, captured.symm,
    scan_length .., scan_tap send recv x Config.actual hs, tmsLeft, tdiLeft, only⟩

/-! ## `load_ir_then_dr` (R239) -/

theorem mayLoad_iff (a : TapState) :
    mayLoad a = true ↔ a ∈ [TapState.runTestIdle, .testLogicReset, .pauseDR, .pauseIR] := by
  simp [mayLoad, or_assoc]

section
variable {s : State} (ir send recv : Bitstream)

theorem exec_loadIrThenDr_start (h : s.ready)
    (hs : s.tap ∈ [TapState.runTestIdle, .testLogicReset, .pauseDR, .pauseIR]) :
    exec (.loadIrThenDr ir send recv) s = .next (reply .none
      (setHolder (loadIrDr Config.actual ir send recv s).1 (loadIrDr Config.actual ir send recv s).2)) :=
  (show execLoadIrThenDr ir send recv s = _ from onCall_ready _ _ h).trans
    (congrArg _ (if_pos ((mayLoad_iff s.tap).2 hs)))

theorem exec_loadIrThenDr_refused (h : s.ready)
    (hs : s.tap ∉ [TapState.runTestIdle, .testLogicReset, .pauseDR, .pauseIR]) :
    exec (.loadIrThenDr ir send recv) s =
      .next { s with fault := some (.badStartState s.tap), outcome := none, holder := recv } :=
  (show execLoadIrThenDr ir send recv s = _ from onCall_ready _ _ h).trans
    (congrArg _ (if_neg (mt (mayLoad_iff s.tap).1 hs)))

end

/-- Settles O36: `mayLoad` chooses the branch; the pulses and the captured bits are those of the two phases, and the
pins are left by the last pulse. -/
theorem loadIrThenDrRunsBothPhases : Obligations.LoadIrThenDrRunsBothPhases := by
  intro ir send recv s h
  refine ⟨fun hs => ?_, exec_loadIrThenDr_refused ir send recv h⟩
  obtain ⟨evs, hm, tms, tdi, captured⟩ := loadIrDr_spec Config.actual ir send recv s
  obtain ⟨grows, pulsesTms, pulsesTdi, pulsesTdo, only⟩ :=
    reply_setHolder_of_drives .none (loadIrDr Config.actual ir send recv s).1 hm.toDrives
  rw [scanBits_eq] at tdi
  rw [← pulsesTdo] at captured
  exact ⟨_, exec_loadIrThenDr_start ir send recv h hs, loadIrDr_tap .., grows,
    ⟨pulsesTms.trans tms, pulsesTdi.trans tdi, captured⟩, loadIrDr_length .., hm.pinsHold, only⟩

end Sys2Proof.Proofs

/-!
The device chain (43_chain.md). The pulses and the captured bits of the two scans are in Laws/Chain. What stands here
reads the answers off the captured bits: the first 0 of the window, and the slices of 32 bits.
-/
namespace Sys2Proof.Proofs
open Machine

/-- A load that ends with a data phase leaves TMS at 0 and TDI at the last bit it drove, also where it follows a reset
of the TAP, which holds TDI (41_tap.md R203; 42_scan.md R224, R239). -/
theorem pins_after_load {s t : State} {evs : List PulseEvent} {bits : List Bit} {ir : Bitstream} {a : TapState}
    {i n : Nat} (hm : Moves s t evs) (hn : n ≠ 0)
    (tms : evs.map PulseEvent.tms = List.replicate 5 true ++ loadTms a i n)
    (tdi : evs.map PulseEvent.tdi = List.replicate 5 s.tdi ++ loadTdi s.tdi a ir bits) :
    t.tms = false ∧ t.tdi = bits.getLastD (ir.getLastD s.tdi) := by
  rw [hm.tms, hm.tdi, tms, tdi, getLastD_append, getLastD_append, getLastD_replicate, loadTms_last _ a i n hn,
    loadTdi_last]
  exact ⟨rfl, rfl⟩

theorem getLastD_replicate_of_ne_zero {n : Nat} (hn : n ≠ 0) (x v : Bit) : (List.replicate n x).getLastD v = x := by
  obtain ⟨m, rfl⟩ := Nat.exists_eq_succ_of_ne_zero hn
  rw [List.replicate_succ, List.getLastD_cons, getLastD_replicate]

/-! ## The count (R251) -/

section
variable {c : Params} {s : State}

theorem exec_getNumberOfDevices (h : s.ready) :
    exec .getNumberOfDevices s = .next (numberOfDevices Config.actual s) :=
  show execGetNumberOfDevices s = _ from onCall_ready _ _ h

theorem numberOfDevices_of_some {d : Nat} (hd : (countDevices c s).1 = some d) :
    numberOfDevices c s = reply (.nat d) (countDevices c s).2 := by
  rw [numberOfDevices, hd]
  rfl

theorem numberOfDevices_of_none (hd : (countDevices c s).1 = none) :
    numberOfDevices c s = replyError (noTerminator c) (countDevices c s).2 := by
  rw [numberOfDevices, hd]
  rfl

theorem numdev_eq_ofNat_iff (d : Nat) :
    (numberOfDevices c s).numdev = Int.ofNat d ↔ (countDevices c s).1 = some d := by
  rw [show (numberOfDevices c s).numdev = _ from numdev_countDevices c s]
  cases (countDevices c s).1 with
  | none => simp
  | some e => simp

theorem numdev_eq_neg_one_iff : (numberOfDevices c s).numdev = -1 ↔ (countDevices c s).1 = none := by
  rw [show (numberOfDevices c s).numdev = _ from numdev_countDevices c s]
  cases (countDevices c s).1 with
  | none => simp
  | some e => simp

/-- Bit `j` of the window is the answer to the pulse `n + j` places after the first captured bit. -/
theorem window_getElem? (l : List Bit) (a n j : Nat) (hj : j ≤ n) :
    (((l.drop a).take (2 * n + 1)).drop n)[j]? = l[a + n + j]? := by
  rw [List.getElem?_drop, List.getElem?_take_of_lt (by omega), List.getElem?_drop, Nat.add_assoc]

/-- The count is the place of the first 0 in the window, whichever bits `tdo` the capture was taken from. -/
theorem countDevices_first_zero {tdo : List Bit} {d : Nat}
    (captured : (countCapture c s).1 = (tdo.drop (c.maxIrBits + 14)).take (2 * c.maxChainDevices + 1))
    (hd : d ≤ c.maxChainDevices) (zero : tdo[c.maxIrBits + 14 + c.maxChainDevices + d]? = some false)
    (below : ∀ j, j < d → tdo[c.maxIrBits + 14 + c.maxChainDevices + j]? = some true) :
    (countDevices c s).1 = some d := by
  show firstZero ((countCapture c s).1.drop c.maxChainDevices) = some d
  rw [captured]
  refine firstZero_some _ d ?_ fun j hj => ?_
  · rwa [window_getElem? _ _ _ _ hd]
  · rw [window_getElem? _ _ _ _ (hj.le.trans hd)]
    exact below j hj

/-- No count is found in a window without a 0. -/
theorem countDevices_all_ones {tdo : List Bit}
    (captured : (countCapture c s).1 = (tdo.drop (c.maxIrBits + 14)).take (2 * c.maxChainDevices + 1))
    (high : ∀ j, j ≤ c.maxChainDevices → tdo[c.maxIrBits + 14 + c.maxChainDevices + j]? = some true) :
    (countDevices c s).1 = none := by
  show firstZero ((countCapture c s).1.drop c.maxChainDevices) = none
  refine firstZero_none _ fun j hj => ?_
  have hle : j ≤ c.maxChainDevices := by
    rw [List.length_drop, countCapture, loadIrDr_length, zeros_length] at hj
    omega
  rw [captured, window_getElem? _ _ _ _ hle]
  exact high j hle

/-- Beside the transport, a count writes `x[NUMDEV]` and its return value. -/
theorem numberOfDevices_frame (c : Params) (s : State) : transportOnly
    { s with numdev := (numberOfDevices c s).numdev, outcome := (numberOfDevices c s).outcome }
    (numberOfDevices c s) := by
  obtain ⟨_, hm⟩ := countCapture_moves c s
  exact congrArg (fun u : State => { u with
    numdev := (numberOfDevices c s).numdev, outcome := (numberOfDevices c s).outcome }) hm.only

theorem countSend_getLastD (c : Params) (v : Bit) : (countSend c).getLastD v = false := by
  rw [countSend, getLastD_append]
  exact getLastD_replicate_of_ne_zero (Nat.succ_ne_zero _) false _

end

/-- Settles O38: the pulses are those of the capture, and the window is a part of the answers to them. -/
theorem deviceCountIsFirstZero : Obligations.DeviceCountIsFirstZero := by
  intro s h
  obtain ⟨evs, hm, tms, len, tdi, captured, tap⟩ := countCapture_spec Config.actual s
  have pulses : newPulses s (numberOfDevices Config.actual s) = evs := hm.newPulses_eq
  obtain ⟨tmsLeft, tdiLeft⟩ := pins_after_load hm (Nat.succ_ne_zero _) tms tdi
  rw [← pulses] at tms len tdi captured
  refine ⟨_, exec_getNumberOfDevices h, tap, hm.grows, ⟨tms, tdi, len, fun d hd zero below => ?_, fun high => ?_⟩,
    tmsLeft, tdiLeft.trans (countSend_getLastD _ _), numberOfDevices_frame _ s⟩
  · have found := countDevices_first_zero captured hd zero below
    exact ⟨(numdev_eq_ofNat_iff d).2 found, congrArg State.outcome (numberOfDevices_of_some found)⟩
  · have missing := countDevices_all_ones captured high
    exact ⟨numdev_eq_neg_one_iff.2 missing, congrArg State.outcome (numberOfDevices_of_none missing)⟩

/-! ## The IDCODEs (R253) -/

section
variable {c : Params} {s : State}

theorem exec_getIdcodes (h : s.ready) : exec .getIdcodes s = .next (idcodes Config.actual s) :=
  show execGetIdcodes s = _ from onCall_ready _ _ h

theorem idcodes_of_none (hd : (countDevices c s).1 = none) :
    idcodes c s = { numberOfDevices c s with idcodes := [] } := by
  rw [numberOfDevices_of_none hd, idcodes, hd]
  rfl

theorem idcodes_of_zero (hd : (countDevices c s).1 = some 0) : idcodes c s =
    { numberOfDevices c s with idcodes := [], outcome := some (.ok (.bitstreams [])) } := by
  rw [numberOfDevices_of_some hd, idcodes, hd]
  rfl

/-- With devices on the chain, the scan follows in the state the count leaves. -/
theorem idcodes_of_pos {d : Nat} (hpos : 0 < d) (hd : (countDevices c s).1 = some d) : idcodes c s =
    let q := idcodeCapture c d (countDevices c s).2
    reply (.bitstreams (idcodeSlices d q.1)) (setIdcodes (idcodeSlices d q.1) q.2) := by
  obtain ⟨e, rfl⟩ := Nat.exists_eq_add_of_lt hpos
  rw [Nat.zero_add] at hd ⊢
  rw [idcodes, hd]

theorem idcodeSlices_length (d : Nat) (recv : Bitstream) : (idcodeSlices d recv).length = d := by
  rw [idcodeSlices, List.length_map, List.length_range]

/-- Slice `k` of the bits captured from place `a` on is the 32 bits from place `a + 32 * k` on. -/
theorem idcodeSlices_getElem? (l : List Bit) (a d k : Nat) (hk : k < d) :
    (idcodeSlices d ((l.drop a).take (32 * d)))[k]? = some ((l.drop (a + 32 * k)).take 32) := by
  have hmin : min 32 (32 * d - 32 * k) = 32 := by omega
  rw [idcodeSlices, List.getElem?_map, List.getElem?_range hk, Option.map_some, List.drop_take, List.take_take,
    hmin, List.drop_drop]

theorem transportOnly_reply_setIdcodes {t : State} (v : Value) (bs : List Bitstream) (h : transportOnly s t) :
    transportOnly { s with idcodes := bs, outcome := some (.ok v) } (reply v (setIdcodes bs t)) :=
  congrArg (fun u => reply v (setIdcodes bs u)) h

end

/-- Settles O39: `x[NUMDEV]` says which case of the count it is, and in the last the IDCODEs are slices of the captured
bits. The pulses are counted from the state the count's call leaves, which differs from the one the scan starts in only
in its return value. -/
theorem idcodesAreTheCapturedBits : Obligations.IdcodesAreTheCapturedBits := by
  intro s h
  refine ⟨_, _, exec_getNumberOfDevices h, exec_getIdcodes h, fun hd => idcodes_of_none (numdev_eq_neg_one_iff.1 hd),
    fun hd => idcodes_of_zero ((numdev_eq_ofNat_iff 0).1 hd), fun d hpos hd => ?_⟩
  have found := (numdev_eq_ofNat_iff d).1 hd
  have hbits : 32 * d ≠ 0 := by omega
  obtain ⟨evs, hm, tms, len, tdi, captured, tap⟩ := idcodeCapture_spec Config.actual d hpos (countDevices _ s).2
  obtain ⟨tmsLeft, tdiLeft⟩ := pins_after_load hm hbits tms tdi
  have pulses : newPulses (numberOfDevices Config.actual s) (idcodeCapture Config.actual d (countDevices _ s).2).2 =
    evs := hm.newPulses_eq
  rw [← pulses] at tms len tdi captured
  rw [idcodes_of_pos hpos found]
  refine ⟨tap, hm.grows, tms, tdi, len, tmsLeft, tdiLeft.trans (getLastD_replicate_of_ne_zero hbits true _),
    idcodeSlices_length .., rfl, fun k hk => ?_, (transportOnly_reply_setIdcodes _ _ hm.only :)⟩
  show (idcodeSlices d (idcodeCapture Config.actual d (countDevices _ s).2).1)[k]? = _
  rw [captured]
  exact idcodeSlices_getElem? _ 9 d k hk

end Sys2Proof.Proofs

/-!
The SVF commands (44_svf.md). A command that is executed answers its body's state (`onCommand_ready`). What a load
leaves in a header or trailer register, and what a register scan drives, is said once for all the commands that do it.
-/
namespace Sys2Proof.Proofs
open Machine

/-! ## Register scans (R285, R286) -/

/-- The payload's bits, the trailer lowest and so the first to be shifted (20_memory.md R63). -/
theorem payload_eq (header data trailer : Bitstream) : payload header data trailer = trailer ++ data ++ header := by
  rw [payload, concatBits, concatBits, List.append_assoc]

/-- All that a register scan does. -/
theorem scanRegister_effect (c : Params) {shiftState exitState : TapState}
    (path : shiftState = .shiftDR ∧ exitState = .exit1DR ∨ shiftState = .shiftIR ∧ exitState = .exit1IR)
    (endState : TapState) (bits : Bitstream) (s : State) :
    (scanRegister c shiftState endState bits s).tap = endState ∧
    traceGrows s (scanRegister c shiftState endState bits s) ∧
    (newTms s (scanRegister c shiftState endState bits s) =
        scanRegisterTms s.tap shiftState exitState endState bits.length ∧
      newTdi s (scanRegister c shiftState endState bits s) =
        scanRegisterTdi s.tdi s.tap shiftState exitState endState bits) ∧
    pinsHold s (scanRegister c shiftState endState bits s) ∧
    transportOnly s (scanRegister c shiftState endState bits s) := by
  obtain ⟨evs, hm, tms, tdi, tap⟩ := scanRegister_spec c shiftState exitState endState path bits s
  exact ⟨tap, hm.grows, ⟨(newTms_of_drives hm.toDrives).trans tms, (newTdi_of_drives hm.toDrives).trans tdi⟩,
    hm.pinsHold, hm.only⟩

/-- Settles O44: a register scan through ShiftIR, of the field between the IR trailer and the IR header. -/
theorem sirShiftsThePayload : Obligations.SirShiftsThePayload := by
  intro n h o s hs
  refine ⟨_, show execSir n h s = _ from onCommand_ready s _ hs, ?_⟩
  rw [payload_eq, ofHexDigits_eq]
  exact scanRegister_effect Config.actual (.inr ⟨rfl, rfl⟩) s.endir _ s

/-- Settles O45: a register scan through ShiftDR, of the field between the DR trailer and the DR header. -/
theorem sdrShiftsThePayload : Obligations.SdrShiftsThePayload := by
  intro n h o s hs
  refine ⟨_, show execSdr n h s = _ from onCommand_ready s _ hs, ?_⟩
  rw [payload_eq, ofHexDigits_eq]
  exact scanRegister_effect Config.actual (.inl ⟨rfl, rfl⟩) s.enddr _ s

/-! ## End states, headers and trailers (R278, R279, R281 to R284) -/

/-- Settles O41: the body of either command is one update. -/
theorem endStatesAreWritten : Obligations.EndStatesAreWritten := fun d s hs =>
  ⟨show execEndir d s = _ from onCommand_ready s _ hs, show execEnddr d s = _ from onCommand_ready s _ hs⟩

/-- Settles O43: the four commands write what `loadContext` makes of the register, which is resized without a TDI field
and is the field's bits with one. -/
theorem headersAndTrailersAreLoaded : Obligations.HeadersAndTrailersAreLoaded := by
  intro n h o s hs holds
  have loaded (old : Bitstream) : holds old (loadContext old n h) := by
    cases h with
    | none => exact ⟨resizeBits_length old n, resizeBits_getElem? old n⟩
    | some ds => exact ⟨ofHexDigits_length n ds, ofHexDigits_getElem? n ds⟩
  exact ⟨⟨_, show execHir n h s = _ from onCommand_ready s _ hs, loaded s.hir⟩,
    ⟨_, show execHdr n h s = _ from onCommand_ready s _ hs, loaded s.hdr⟩,
    ⟨_, show execTir n h s = _ from onCommand_ready s _ hs, loaded s.tir⟩,
    ⟨_, show execTdr n h s = _ from onCommand_ready s _ hs, loaded s.tdr⟩⟩

end Sys2Proof.Proofs

/-!
The text of an instruction (30_encoding.md). What each decoding function accepts is said once, with what its result is
then. Decoding where `Reject` holds is decoding where `Ignore` does, restricted to the commands without an optional
field.
-/
namespace Sys2Proof.Proofs
open Machine

theorem toOption_eq_some_iff {ε α : Type} (x : Except ε α) (a : α) : x.toOption = some a ↔ x = .ok a := by
  cases x <;> simp [Except.toOption]

theorem map_eq_ok_iff {ε α β : Type} (f : α → β) (x : Except ε α) (b : β) :
    x.map f = .ok b ↔ ∃ a, x = .ok a ∧ f a = b := by
  cases x <;> simp [Except.map]

/-! ## Scan-field lists (R108) -/

theorem fieldName_eq_some_iff (w : List Byte) (n : Option OptField) : fieldName? w = some n ↔ w = fieldText n := by
  refine ⟨fun h => ?_, fun h => h ▸ fieldName_fieldText n⟩
  unfold fieldName? at h
  split_ifs at h with h1 h2 h3 h4 <;> cases h <;> assumption

/-- A field of this name can be read: it has not been read before, and it is not rejected. -/
def fieldAllowed (optional : OptionalFields) (f : ScanFields) (n : Option OptField) : Prop :=
  f.has n = false ∧ (optional = .reject → n = none)

section
variable {optional : OptionalFields} {f g : ScanFields} {n : Option OptField}

theorem decodeFields_duplicate (rest : List Token) (h : f.has n = true) :
    decodeFields optional (.word (fieldText n) :: rest) f = .error .duplicateField := by
  simp [decodeFields, fieldName_fieldText, h]

theorem decodeFields_rejected (rest : List Token) (h : f.has n = false) (hn : n ≠ none) :
    decodeFields .reject (.word (fieldText n) :: rest) f = .error .rejectedField := by
  simp [decodeFields, fieldName_fieldText, h, Option.isSome_iff_ne_none, hn]

theorem not_rejected (h : fieldAllowed optional f n) : (n.isSome && optional == .reject) = false := by
  cases optional
  · exact Bool.and_false _
  · rw [h.2 rfl]
    rfl

theorem decodeFields_paren (x : List Byte) (rest : List Token) (h : fieldAllowed optional f n) :
    decodeFields optional (.word (fieldText n) :: .paren x :: rest) f =
      decodeFields optional rest (f.add (hexDigits x) n) := by
  simp [decodeFields, fieldName_fieldText, h.1, not_rejected h]

theorem decodeFields_missing (h : fieldAllowed optional f n) :
    decodeFields optional [.word (fieldText n)] f = .error .missingField := by
  simp [decodeFields, fieldName_fieldText, h.1, not_rejected h]

theorem decodeFields_badHex {t : Token} (rest : List Token) (ht : ∀ x, t ≠ .paren x)
    (h : fieldAllowed optional f n) :
    decodeFields optional (.word (fieldText n) :: t :: rest) f = .error .badHexField := by
  cases t with
  | paren x => exact absurd rfl (ht x)
  | word w => simp [decodeFields, fieldName_fieldText, h.1, not_rejected h]
  | unclosed x => simp [decodeFields, fieldName_fieldText, h.1, not_rejected h]

end

/-- The fields after those of the list `fs` are read. -/
def readFields (fs : List (Option OptField × List Byte)) (f : ScanFields) : ScanFields :=
  fs.foldl (fun f p => f.add (hexDigits p.2) p.1) f

/-- The fields of a list can be read one after another. -/
def fieldsAllowed (optional : OptionalFields) (f : ScanFields) (fs : List (Option OptField × List Byte)) : Prop :=
  fieldListReadable optional fs ∧ ∀ n ∈ fs.map Prod.fst, f.has n = false

theorem fieldsAllowed_cons (optional : OptionalFields) (f : ScanFields) (n : Option OptField) (x : List Byte)
    (fs : List (Option OptField × List Byte)) : fieldsAllowed optional f ((n, x) :: fs) ↔
      fieldAllowed optional f n ∧ fieldsAllowed optional (f.add (hexDigits x) n) fs := by
  have apart : n ∉ fs.map Prod.fst ↔ ∀ m ∈ fs.map Prod.fst, m ≠ n :=
    ⟨fun h m hm e => h (e ▸ hm), fun h hn => h n hn rfl⟩
  simp only [fieldsAllowed, fieldListReadable, fieldAllowed, List.map_cons, List.nodup_cons, apart,
    List.forall_mem_cons, scanFields_has_add, Bool.or_eq_false_iff, beq_eq_false_iff_ne, forall_and]
  tauto

/-- What a scan-field list is: fields that can be read one after another. -/
theorem decodeFields_eq_ok_iff (optional : OptionalFields) (ts : List Token) (f g : ScanFields) :
    decodeFields optional ts f = .ok g ↔
      ∃ fs, ts = fieldListTokens fs ∧ fieldsAllowed optional f fs ∧ g = readFields fs f := by
  constructor
  · intro h
    fun_induction decodeFields optional ts f
    case case1 f =>
      cases h
      exact ⟨[], rfl, ⟨⟨List.nodup_nil, by simp⟩, by simp⟩, rfl⟩
    case case6 w f n hn new kept x rest ih =>
      obtain ⟨fs, rfl, allowed, rfl⟩ := ih h
      obtain rfl := (fieldName_eq_some_iff w n).1 hn
      have first : fieldAllowed optional f n :=
        ⟨by simpa using new, fun e => by simpa [e, Option.isSome_iff_ne_none] using kept⟩
      exact ⟨(n, x) :: fs, rfl, (fieldsAllowed_cons ..).2 ⟨first, allowed⟩, rfl⟩
    all_goals cases h
  · rintro ⟨fs, rfl, allowed, rfl⟩
    induction fs generalizing f with
    | nil => rfl
    | cons p fs ih =>
      obtain ⟨n, x⟩ := p
      obtain ⟨first, rest⟩ := (fieldsAllowed_cons ..).1 allowed
      exact (decodeFields_paren x _ first).trans (ih _ rest)

theorem readFields_names (fs : List (Option OptField × List Byte)) (f : ScanFields) :
    (readFields fs f).others.map Prod.fst = f.others.map Prod.fst ++ (fs.map Prod.fst).reduceOption := by
  induction fs generalizing f with
  | nil => simp [readFields, List.reduceOption]
  | cons p fs ih =>
    obtain ⟨n, x⟩ := p
    rw [readFields, List.foldl_cons, ← readFields, ih]
    cases n <;> simp [ScanFields.add]

theorem distinctFields_iff (l : OptFields) : distinctFields l = true ↔ (l.map Prod.fst).Nodup := by
  induction l with
  | nil => simp [distinctFields]
  | cons p l ih =>
    have head : (l.any fun q => q.1 == p.1) = false ↔ p.1 ∉ l.map Prod.fst := by
      rw [List.any_eq_false, List.mem_map, not_exists]
      exact forall_congr' fun q => by simp
    rw [distinctFields, Bool.and_eq_true, Bool.not_eq_true', head, ih, List.map_cons, List.nodup_cons]

/-- What is read of a list is named at most once. -/
theorem distinctFields_of_decodeFields {optional : OptionalFields} {ts : List Token} {g : ScanFields}
    (h : decodeFields optional ts ⟨none, []⟩ = .ok g) : distinctFields g.others = true := by
  obtain ⟨fs, rfl, ⟨⟨nodup, -⟩, -⟩, rfl⟩ := (decodeFields_eq_ok_iff ..).1 h
  rw [distinctFields_iff, readFields_names]
  exact nodup.filterMap fun _ _ _ ha hb => ha.trans hb.symm

theorem readFields_others_eq_nil_iff (fs : List (Option OptField × List Byte)) :
    (readFields fs ⟨none, []⟩).others = [] ↔ ∀ p ∈ fs, p.1 = none := by
  rw [← List.map_eq_nil_iff (f := Prod.fst), readFields_names, List.map_nil, List.nil_append,
    List.eq_nil_iff_forall_not_mem]
  simp only [List.reduceOption_mem_iff, Option.eq_none_iff_forall_ne_some, List.mem_map, not_exists, not_and]
  exact ⟨fun h p hp o => h o p hp, fun h o p hp => h p hp o⟩

/-- `Reject` reads the lists that hold TDI alone (R108). -/
theorem decodeFields_reject_iff (ts : List Token) (g : ScanFields) :
    decodeFields .reject ts ⟨none, []⟩ = .ok g ↔ decodeFields .ignore ts ⟨none, []⟩ = .ok g ∧ g.others = [] := by
  have allowed (fs : List (Option OptField × List Byte)) : fieldsAllowed .reject ⟨none, []⟩ fs ↔
      fieldsAllowed .ignore ⟨none, []⟩ fs ∧ ∀ p ∈ fs, p.1 = none := by
    simp [fieldsAllowed, fieldListReadable]
    tauto
  simp only [decodeFields_eq_ok_iff, allowed, ← readFields_others_eq_nil_iff]
  constructor
  · rintro ⟨fs, rfl, ⟨h, hnone⟩, rfl⟩
    exact ⟨⟨fs, rfl, h, rfl⟩, hnone⟩
  · rintro ⟨⟨fs, rfl, h, rfl⟩, hnone⟩
    exact ⟨fs, rfl, ⟨h, hnone⟩, rfl⟩

/-! ## Operands of commands (R107) -/

theorem svfNumber_le {t : Token} {n : Nat} (h : svfNumber? t = some n) : n ≤ numericFieldMax := by
  obtain ⟨m, -, hm⟩ := Option.bind_eq_some_iff.1 h
  split at hm
  · cases hm
    assumption
  · cases hm

theorem decodeNumberAndFields_eq_ok_iff (optional : OptionalFields) (ts : List Token) (p : Nat × ScanFields) :
    decodeNumberAndFields optional ts = .ok p ↔ ∃ t rest, ts = t :: rest ∧ svfNumber? t = some p.1 ∧
      decodeFields optional rest ⟨none, []⟩ = .ok p.2 := by
  cases ts with
  | nil => simp [decodeNumberAndFields]
  | cons t rest =>
    rw [decodeNumberAndFields]
    cases ht : svfNumber? t with
    | none => simp [ht]
    | some n =>
      obtain ⟨m, g⟩ := p
      simp [map_eq_ok_iff, ht]
      tauto

theorem decodeNumberAndFields_reject_iff (ts : List Token) (p : Nat × ScanFields) :
    decodeNumberAndFields .reject ts = .ok p ↔ decodeNumberAndFields .ignore ts = .ok p ∧ p.2.others = [] := by
  simp only [decodeNumberAndFields_eq_ok_iff, decodeFields_reject_iff, ← and_assoc, exists_and_right]

theorem scanFieldsWellFormed_of_decode {optional : OptionalFields} {ts : List Token} {p : Nat × ScanFields}
    (h : decodeNumberAndFields optional ts = .ok p) : scanFieldsWellFormed p.1 p.2.others = true := by
  obtain ⟨t, rest, -, hn, hf⟩ := (decodeNumberAndFields_eq_ok_iff ..).1 h
  rw [scanFieldsWellFormed, distinctFields_of_decodeFields hf, Bool.and_true]
  exact decide_eq_true (svfNumber_le hn)

theorem decodeContext_eq_ok_iff (optional : OptionalFields) (mk : Nat → Option (List Nibble) → OptFields → Instr)
    (ts : List Token) (i : Instr) : decodeContext optional mk ts = .ok i ↔
      ∃ p, decodeNumberAndFields optional ts = .ok p ∧ mk p.1 p.2.tdi p.2.others = i :=
  map_eq_ok_iff ..

theorem decodeContext_reject_iff (mk : Nat → Option (List Nibble) → OptFields → Instr) (ts : List Token) (i : Instr)
    (hmk : ∀ n t o, (mk n t o).hasNoOptionalFields = o.isEmpty) : decodeContext .reject mk ts = .ok i ↔
      decodeContext .ignore mk ts = .ok i ∧ i.hasNoOptionalFields = true := by
  simp only [decodeContext_eq_ok_iff, decodeNumberAndFields_reject_iff]
  constructor
  · rintro ⟨p, ⟨hp, hnone⟩, rfl⟩
    exact ⟨⟨p, hp, rfl⟩, by rw [hmk, hnone]; rfl⟩
  · rintro ⟨⟨p, hp, rfl⟩, hnone⟩
    rw [hmk, List.isEmpty_iff] at hnone
    exact ⟨p, ⟨hp, hnone⟩, rfl⟩

theorem decodeScan_eq_ok_iff (optional : OptionalFields) (mk : Nat → List Nibble → OptFields → Instr)
    (ts : List Token) (i : Instr) : decodeScan optional mk ts = .ok i ↔
      ∃ p, decodeNumberAndFields optional ts = .ok p ∧ ∃ h, p.2.tdi = some h ∧ mk p.1 h p.2.others = i := by
  rw [decodeScan]
  cases decodeNumberAndFields optional ts with
  | error e => simp
  | ok p =>
    obtain ⟨n, f⟩ := p
    cases htdi : f.tdi <;> simp [htdi]

theorem decodeScan_reject_iff (mk : Nat → List Nibble → OptFields → Instr) (ts : List Token) (i : Instr)
    (hmk : ∀ n t o, (mk n t o).hasNoOptionalFields = o.isEmpty) : decodeScan .reject mk ts = .ok i ↔
      decodeScan .ignore mk ts = .ok i ∧ i.hasNoOptionalFields = true := by
  simp only [decodeScan_eq_ok_iff, decodeNumberAndFields_reject_iff]
  constructor
  · rintro ⟨p, ⟨hp, hnone⟩, t, ht, rfl⟩
    exact ⟨⟨p, hp, t, ht, rfl⟩, by rw [hmk, hnone]; rfl⟩
  · rintro ⟨⟨p, hp, t, ht, rfl⟩, hnone⟩
    rw [hmk, List.isEmpty_iff] at hnone
    exact ⟨p, ⟨hp, hnone⟩, t, ht, rfl⟩

theorem decodeIgnored_ok {mk : List Token → Instr} {ts : List Token} {i : Instr} (h : decodeIgnored mk ts = .ok i) :
    (∀ t ∈ ts, t.isUnclosed = false) ∧ i = mk ts := by
  rw [decodeIgnored] at h
  split at h
  · cases h
  case isFalse hu =>
    cases h
    exact ⟨by simpa using hu, rfl⟩

theorem decodeOneState_ok {mk : TapState → Instr} {ts : List Token} {i : Instr} (h : decodeOneState mk ts = .ok i) :
    ∃ d, i = mk d := by
  cases ts with
  | nil => cases h
  | cons t ts =>
    rw [decodeOneState] at h
    split at h
    · cases h
    · exact ⟨_, decodeEnd_ok _ _ _ h⟩

theorem decodeStateList_ok {ts : List Token} {i : Instr} (h : decodeStateList ts = .ok i) :
    ∃ d ds, i = .state d ds := by
  rw [decodeStateList] at h
  split at h <;> cases h
  exact ⟨_, _, rfl⟩

theorem decodeRuntest_ok {ts : List Token} {i : Instr} (h : decodeRuntest ts = .ok i) :
    ∃ n, n ≤ numericFieldMax ∧ i = .runtest n := by
  revert h
  fun_cases decodeRuntest ts
  case case4 t n hn rest =>
    intro h
    exact ⟨n, svfNumber_le hn, decodeEnd_ok _ _ _ h⟩
  all_goals exact nofun

/-- `Reject` reads the operands that hold no field it rejects. -/
theorem decodeSvfOperands_reject_iff (ts : List Token) (k : SvfKeyword) (i : Instr) :
    decodeSvfOperands .reject ts k = .ok i ↔
      decodeSvfOperands .ignore ts k = .ok i ∧ i.hasNoOptionalFields = true := by
  cases k
  case trst | pio | piomap | frequency =>
    refine (and_iff_left_of_imp fun h => ?_).symm
    obtain ⟨-, rfl⟩ := decodeIgnored_ok h
    rfl
  case endir | enddr =>
    refine (and_iff_left_of_imp fun h => ?_).symm
    obtain ⟨d, rfl⟩ := decodeOneState_ok h
    rfl
  case state =>
    refine (and_iff_left_of_imp fun h => ?_).symm
    obtain ⟨d, ds, rfl⟩ := decodeStateList_ok h
    rfl
  case runtest =>
    refine (and_iff_left_of_imp fun h => ?_).symm
    obtain ⟨n, -, rfl⟩ := decodeRuntest_ok h
    rfl
  case hir | hdr | tir | tdr => exact decodeContext_reject_iff _ ts i fun _ _ _ => rfl
  case sir | sdr => exact decodeScan_reject_iff _ ts i fun _ _ _ => rfl

/-- The operands of a command are read as a well-formed instruction. -/
theorem decodeSvfOperands_wellFormed {optional : OptionalFields} {ts : List Token} {k : SvfKeyword} {i : Instr}
    (h : decodeSvfOperands optional ts k = .ok i)
    (hts : ∀ t ∈ ts, t.wellFormed = true ∨ t.isUnclosed = true) : i.wellFormed = true := by
  cases k
  case trst | pio | piomap | frequency =>
    obtain ⟨closed, rfl⟩ := decodeIgnored_ok h
    exact List.all_eq_true.2 fun t ht => (hts t ht).resolve_right (by simp [closed t ht])
  case endir | enddr =>
    obtain ⟨d, rfl⟩ := decodeOneState_ok h
    rfl
  case state =>
    obtain ⟨d, ds, rfl⟩ := decodeStateList_ok h
    rfl
  case runtest =>
    obtain ⟨n, hn, rfl⟩ := decodeRuntest_ok h
    exact decide_eq_true hn
  case hir | hdr | tir | tdr =>
    obtain ⟨p, hp, rfl⟩ := (decodeContext_eq_ok_iff ..).1 h
    exact scanFieldsWellFormed_of_decode hp
  case sir | sdr =>
    obtain ⟨p, hp, t, -, rfl⟩ := (decodeScan_eq_ok_iff ..).1 h
    exact scanFieldsWellFormed_of_decode hp

theorem decodeSvfTokens_eq_ok_iff (optional : OptionalFields) (ts : List Token) (i : Instr) :
    decodeSvfTokens optional ts = .ok i ↔ ∃ t operands k, ts = t :: operands ∧ SvfKeyword.ofToken? t = some k ∧
      decodeSvfOperands optional operands k = .ok i := by
  cases ts with
  | nil => simp [decodeSvfTokens]
  | cons t operands =>
    rw [decodeSvfTokens]
    cases ht : SvfKeyword.ofToken? t <;> simp [ht]

/-- `Reject` reads the commands that hold no field it rejects (R108). -/
theorem decodeSvfTokens_reject_iff (ts : List Token) (i : Instr) : decodeSvfTokens .reject ts = .ok i ↔
    decodeSvfTokens .ignore ts = .ok i ∧ i.hasNoOptionalFields = true := by
  simp only [decodeSvfTokens_eq_ok_iff, decodeSvfOperands_reject_iff, ← and_assoc, exists_and_right]

/-! ## Reading back what the encoder writes (R107, R112) -/

/-- The tokens the encoder writes are decoded, by the law of each instruction (Laws/PerInstr). -/
theorem decodeTokens_encodeTokens : ∀ i : Instr, Laws.TokensRoundTrip.Statement i
  | .new _ => Laws.TokensRoundTrip.new _ | .length _ => Laws.TokensRoundTrip.length _
  | .resize _ _ => Laws.TokensRoundTrip.resize _ _ | .get _ _ => Laws.TokensRoundTrip.get _ _
  | .setBit _ _ _ => Laws.TokensRoundTrip.setBit _ _ _ | .setBits _ _ _ => Laws.TokensRoundTrip.setBits _ _ _
  | .xor _ _ => Laws.TokensRoundTrip.xor _ _ | .concat _ _ => Laws.TokensRoundTrip.concat _ _
  | .shiftRight _ _ => Laws.TokensRoundTrip.shiftRight _ _ | .reverse _ => Laws.TokensRoundTrip.reverse _
  | .equal _ _ => Laws.TokensRoundTrip.equal _ _ | .toHexString _ => Laws.TokensRoundTrip.toHexString _
  | .fromHexString _ _ => Laws.TokensRoundTrip.fromHexString _ _
  | .toCharString _ => Laws.TokensRoundTrip.toCharString _
  | .fromCharString _ _ => Laws.TokensRoundTrip.fromCharString _ _
  | .toWordString _ => Laws.TokensRoundTrip.toWordString _
  | .fromWordString _ _ => Laws.TokensRoundTrip.fromWordString _ _
  | .fromHexStream _ _ _ => Laws.TokensRoundTrip.fromHexStream _ _ _
  | .fromCharStream _ _ _ => Laws.TokensRoundTrip.fromCharStream _ _ _
  | .toString _ => Laws.TokensRoundTrip.toString _ | .fromString _ => Laws.TokensRoundTrip.fromString _
  | .nextState _ _ => Laws.TokensRoundTrip.nextState _ _ | .pathOf _ _ => Laws.TokensRoundTrip.pathOf _ _
  | .gotoNextState _ => Laws.TokensRoundTrip.gotoNextState _ | .gotoState _ => Laws.TokensRoundTrip.gotoState _
  | .goThruTapSequence _ => Laws.TokensRoundTrip.goThruTapSequence _
  | .updateState _ => Laws.TokensRoundTrip.updateState _ | .initTap => Laws.TokensRoundTrip.initTap
  | .pathsOk => Laws.TokensRoundTrip.pathsOk | .setTck _ => Laws.TokensRoundTrip.setTck _
  | .getTck => Laws.TokensRoundTrip.getTck | .pulseTck _ => Laws.TokensRoundTrip.pulseTck _
  | .setTms _ => Laws.TokensRoundTrip.setTms _ | .getTms => Laws.TokensRoundTrip.getTms
  | .setTdi _ => Laws.TokensRoundTrip.setTdi _ | .getTdi => Laws.TokensRoundTrip.getTdi
  | .getTdo => Laws.TokensRoundTrip.getTdo
  | .sendRecvBitstream _ _ _ => Laws.TokensRoundTrip.sendRecvBitstream _ _ _
  | .loadIrThenDr _ _ _ => Laws.TokensRoundTrip.loadIrThenDr _ _ _
  | .getNumberOfDevices => Laws.TokensRoundTrip.getNumberOfDevices | .getIdcodes => Laws.TokensRoundTrip.getIdcodes
  | .svfRun _ => Laws.TokensRoundTrip.svfRun _ | .trst _ => Laws.TokensRoundTrip.trst _
  | .pio _ => Laws.TokensRoundTrip.pio _ | .piomap _ => Laws.TokensRoundTrip.piomap _
  | .frequency _ => Laws.TokensRoundTrip.frequency _ | .endir _ => Laws.TokensRoundTrip.endir _
  | .enddr _ => Laws.TokensRoundTrip.enddr _ | .state _ _ => Laws.TokensRoundTrip.state _ _
  | .hir _ _ _ => Laws.TokensRoundTrip.hir _ _ _ | .hdr _ _ _ => Laws.TokensRoundTrip.hdr _ _ _
  | .tir _ _ _ => Laws.TokensRoundTrip.tir _ _ _ | .tdr _ _ _ => Laws.TokensRoundTrip.tdr _ _ _
  | .sir _ _ _ => Laws.TokensRoundTrip.sir _ _ _ | .sdr _ _ _ => Laws.TokensRoundTrip.sdr _ _ _
  | .runtest _ => Laws.TokensRoundTrip.runtest _

theorem decodeSvfTokens_encodeTokens {optional : OptionalFields} {i : Instr} (h : i.wellFormed = true)
    (hs : i.isSvf = true) (ho : optional = .reject → i.hasNoOptionalFields = true) :
    decodeSvfTokens optional (encodeTokens i) = .ok i := by
  have ignore := decodeTokens_encodeTokens i h
  rw [decodeTokens, if_pos hs, toOption_eq_some_iff] at ignore
  cases optional with
  | ignore => exact ignore
  | reject => exact (decodeSvfTokens_reject_iff _ _).2 ⟨ignore, ho rfl⟩

theorem decodeCommand_encode {optional : OptionalFields} {i : Instr} (h : i.wellFormed = true) (hs : i.isSvf = true)
    (ho : optional = .reject → i.hasNoOptionalFields = true) :
    decodeCommand optional (renderTokens (encodeTokens i)) = .ok i := by
  obtain ⟨-, -, hlex⟩ := encode_clean i h
  rw [decodeCommand, hlex]
  exact decodeSvfTokens_encodeTokens h hs ho

theorem splitCommand_encode {i : Instr} (h : i.wellFormed = true) :
    splitCommand (encode i) = some (renderTokens (encodeTokens i), []) :=
  splitCommand_append _ [] (encode_clean i h).1

theorem decodeCall_encode {i : Instr} (h : i.wellFormed = true) (hs : i.isSvf = false) :
    decodeCall (encode i) = .ok i := by
  have read := decodeTokens_encodeTokens i h
  obtain ⟨-, -, hlex⟩ := encode_clean i h
  rw [decodeTokens, if_neg (by simp [hs]), toOption_eq_some_iff] at read
  rw [decodeCall, splitCommand_encode h]
  dsimp only
  rw [hlex]
  exact read

theorem decodeText_encode {optional : OptionalFields} {i : Instr} (h : i.wellFormed = true)
    (ho : optional = .reject → i.hasNoOptionalFields = true) : decodeText optional (encode i) = some i := by
  obtain ⟨-, hstrip, -⟩ := encode_clean i h
  rw [decodeText, isSvfText_encode i h, hstrip, splitCommand_encode h]
  cases hs : i.isSvf with
  | true => exact (toOption_eq_some_iff ..).2 (decodeCommand_encode h hs ho)
  | false => exact (toOption_eq_some_iff ..).2 (decodeCall_encode h hs)

/-- Settles O1: each instruction's tokens are decoded, and its text is split into these tokens again. -/
theorem decodeUndoesEncode : Obligations.DecodeUndoesEncode := fun _ h =>
  ⟨decodeText_encode h nofun, fun ho => decodeText_encode h fun _ => ho⟩

/-! ## What the decoder accepts (R95 to R98, R104, R108) -/

/-- The operands of a call are read as a call. Only `pulse_tck` bounds what it reads (42_scan.md R220); in every other
arm the instruction is the one of its name, whatever the operands are. -/
theorem decodeOpOperands_ok {k : OpName} {ts : List Token} {i : Instr} (h : decodeOpOperands k ts = some i) :
    i.wellFormed = true ∧ i.hasNoOptionalFields = true := by
  revert h
  fun_cases decodeOpOperands k ts
  case case32 n =>
    intro h
    obtain ⟨m, -, hm⟩ := Option.bind_eq_some_iff.1 h
    split at hm
    case isTrue bound =>
      cases hm
      exact ⟨decide_eq_true bound, rfl⟩
    case isFalse => cases hm
  case case43 => exact nofun
  all_goals
    simp only [Option.bind_eq_some_iff, Option.map_eq_some_iff, Option.some.injEq, forall_exists_index, and_imp]
    intros
    subst_vars
    exact ⟨rfl, rfl⟩

theorem decodeCallTokens_ok {ts : List Token} {i : Instr} (h : decodeCallTokens ts = .ok i) :
    i.wellFormed = true ∧ i.hasNoOptionalFields = true := by
  revert h
  fun_cases decodeCallTokens ts
  case case4 t operands k hk j hj =>
    rintro ⟨⟩
    exact decodeOpOperands_ok hj
  all_goals exact nofun

theorem decodeCall_ok {bytes : List Byte} {i : Instr} (h : decodeCall bytes = .ok i) :
    i.wellFormed = true ∧ i.hasNoOptionalFields = true := by
  revert h
  fun_cases decodeCall bytes
  case case2 => exact decodeCallTokens_ok
  all_goals exact nofun

/-- The tokens of a command of a stripped text can be written, but for an unclosed parenthesis. -/
theorem lex_stripped_wellFormed {text command rest : List Byte}
    (h : splitCommand (stripComments text) = some (command, rest)) :
    ∀ t ∈ lex command, t.wellFormed = true ∨ t.isUnclosed = true := by
  obtain ⟨hsplit, hsemi⟩ := splitCommand_eq_some _ _ _ h
  obtain ⟨hbang, hslash, -⟩ := stripFrom_clean false text
  rw [← stripComments, hsplit] at hbang hslash
  exact lexFrom_wf false [] command (fun hb => hbang (List.mem_append_left _ hb)) hsemi
    (noDouble_left _ _ hslash) rfl

theorem decodeCommand_wellFormed {optional : OptionalFields} {command : List Byte} {i : Instr}
    (h : decodeCommand optional command = .ok i)
    (hts : ∀ t ∈ lex command, t.wellFormed = true ∨ t.isUnclosed = true) :
    i.wellFormed = true ∧ (optional = .reject → i.hasNoOptionalFields = true) := by
  rw [decodeCommand] at h
  refine ⟨?_, fun ho => ?_⟩
  · obtain ⟨t, operands, k, hlex, -, hk⟩ := (decodeSvfTokens_eq_ok_iff ..).1 h
    rw [hlex] at hts
    exact decodeSvfOperands_wellFormed hk fun u hu => hts u (List.mem_cons_of_mem _ hu)
  · subst ho
    exact ((decodeSvfTokens_reject_iff ..).1 h).2

/-- Settles O2: a text is read as a command of its stripped bytes or as a call. -/
theorem decoderGivesWellFormed : Obligations.DecoderGivesWellFormed := by
  intro optional bytes i h
  rw [decodeText] at h
  split at h
  case isTrue =>
    split at h
    case h_1 => cases h
    case h_2 command rest hsplit =>
      split at h
      case isTrue => exact decodeCommand_wellFormed ((toOption_eq_some_iff ..).1 h) (lex_stripped_wellFormed hsplit)
      case isFalse => cases h
  case isFalse =>
    obtain ⟨hw, ho⟩ := decodeCall_ok ((toOption_eq_some_iff ..).1 h)
    exact ⟨hw, fun _ => ho⟩

/-- Settles O3: each text is decoded by evaluation. -/
theorem textsOfTheSpecDecode : Obligations.TextsOfTheSpecDecode := by
  refine ⟨?_, ?_, ?_, ?_⟩ <;> decide

end Sys2Proof.Proofs

/-!
What an instruction can do, said once: the state it works out (`work`), and that the next state is this one with what
the call hands back. The claims about all instructions are then read off the few instructions that work anything out.
-/
namespace Sys2Proof.Proofs
open Machine

/-- The state an instruction works out. What a call hands back (its return value, its fault, its in-out operands) is
written into that state. -/
def work : Instr → State → State
  | .toHexString _, s | .toCharString _, s | .toWordString _, s => notePadding s
  | .gotoNextState d, s => (gotoNext Config.actual d s).1
  | .gotoState (.state d), s => gotoTap Config.actual d s
  | .goThruTapSequence ds, s => (goThru Config.actual ds s).1
  | .updateState n, s => updateTap n s
  | .initTap, s => initTap Config.actual s
  | .setTck v, s => setTck v s
  | .pulseTck n, s => pulses Config.actual n s
  | .setTms v, s => setTms v s
  | .setTdi v, s => setTdi v s
  | .getTdo, s => noteTdoRead s
  | .sendRecvBitstream a b x, s => if mayScan s.tap then (scan Config.actual a b x s).2 else s
  | .loadIrThenDr i a b, s => if mayLoad s.tap then (loadIrDr Config.actual i a b s).2 else s
  | .getNumberOfDevices, s => numberOfDevices Config.actual s
  | .getIdcodes, s => idcodes Config.actual s
  | .svfRun x, s => startRun x s
  | .endir d, s => { s with endir := d }
  | .enddr d, s => { s with enddr := d }
  | .state d ds, s => gotoEach Config.actual (d :: ds) s
  | .hir n h _, s => { s with hir := loadContext s.hir n h }
  | .hdr n h _, s => { s with hdr := loadContext s.hdr n h }
  | .tir n h _, s => { s with tir := loadContext s.tir n h }
  | .tdr n h _, s => { s with tdr := loadContext s.tdr n h }
  | .sir n h _, s => scanRegister Config.actual .shiftIR s.endir (payload s.hir (ofHexDigits n h) s.tir) s
  | .sdr n h _, s => scanRegister Config.actual .shiftDR s.enddr (payload s.hdr (ofHexDigits n h) s.tdr) s
  | .runtest n, s => runTest Config.actual n s
  | _, s => s

/-- The state with the registers an instruction is a writer of written, the tracker and the transport left alone. -/
def written : Instr → State → State
  | .setTck v, s => { s with tck := v }
  | .getNumberOfDevices, s => { s with numdev := (numberOfDevices Config.actual s).numdev }
  | .getIdcodes, s =>
    { s with numdev := (numberOfDevices Config.actual s).numdev, idcodes := (idcodes Config.actual s).idcodes }
  | .svfRun x, s => startRun x s
  | .endir d, s => { s with endir := d }
  | .enddr d, s => { s with enddr := d }
  | .hir n h _, s => { s with hir := loadContext s.hir n h }
  | .hdr n h _, s => { s with hdr := loadContext s.hdr n h }
  | .tir n h _, s => { s with tir := loadContext s.tir n h }
  | .tdr n h _, s => { s with tdr := loadContext s.tdr n h }
  | _, s => s

/-- `t` is the state that `i` has worked out, with what the call hands back: a fault only where one can be raised, and
no return value beside it (60_exceptions.md R330, R333). -/
structure HandsBack (i : Instr) (u t : State) : Prop where
  only : t = { u with fault := t.fault, outcome := t.outcome, holder := t.holder, reader := t.reader }
  fault : t.fault = u.fault ∨ mayFault i = true ∧ t.outcome = none

section
variable {i : Instr} {u t : State}

theorem handsBack_self : HandsBack i u u := ⟨rfl, .inl rfl⟩

theorem handsBack_reply (v : Value) : HandsBack i u (reply v u) := ⟨rfl, .inl rfl⟩

theorem handsBack_replyError (e : OpError) : HandsBack i u (replyError e u) := ⟨rfl, .inl rfl⟩

theorem handsBack_raiseFault (f : FaultCode) (h : mayFault i = true) : HandsBack i u (raiseFault f u) :=
  ⟨rfl, .inr ⟨h, rfl⟩⟩

theorem handsBack_replyOrFault (f : Option FaultCode) (v : Value) (h : mayFault i = true) :
    HandsBack i u (replyOrFault f v u) := by
  cases f with
  | none => exact handsBack_reply v
  | some f => exact handsBack_raiseFault f h

theorem handsBack_of_setHolder {b : Bitstream} (h : HandsBack i (setHolder b u) t) : HandsBack i u t :=
  ⟨h.only, h.fault⟩

theorem handsBack_of_setReader {r : List Byte} (h : HandsBack i (setReader r u) t) : HandsBack i u t :=
  ⟨h.only, h.fault⟩

end

theorem call_next {s t : State} {f : State → State} {i : Instr} (h : onCall s f = .next t)
    (back : HandsBack i (work i s) (f s)) :
    s.fault = none ∧ (i.isSvf = false → s.running = false) ∧ HandsBack i (work i s) t := by
  obtain ⟨fault, running, rfl⟩ := (onCall_next _ _ _).1 h
  exact ⟨fault, fun _ => running, back⟩

theorem command_next {s t : State} {f : State → State} {i : Instr} (h : onCommand s f = .next t)
    (svf : i.isSvf = true) (done : work i s = f s) :
    s.fault = none ∧ (i.isSvf = false → s.running = false) ∧ HandsBack i (work i s) t := by
  obtain ⟨fault, rfl⟩ := (onCommand_next _ _ _).1 h
  exact ⟨fault, fun call => absurd (svf.symm.trans call) nofun, done ▸ handsBack_self⟩

/-- What an instruction can do: it takes effect on a block that is not stuck, a call on one that runs no stream. -/
theorem exec_next {i : Instr} {s t : State} (h : exec i s = .next t) :
    s.fault = none ∧ (i.isSvf = false → s.running = false) ∧ HandsBack i (work i s) t := by
  cases i
  all_goals simp only [exec] at h
  case new | length | concat | equal | toHexString | fromHexString | toCharString | toWordString | toString |
      updateState | initTap | pathsOk | setTck | getTck | pulseTck | setTms | getTms | setTdi | getTdi | getTdo =>
    exact call_next h (handsBack_reply _)
  case resize | shiftRight | reverse =>
    exact call_next h (handsBack_of_setHolder (handsBack_reply _))
  case setBit | setBits =>
    exact call_next h (handsBack_of_setHolder (handsBack_replyOrFault _ _ rfl))
  case get | xor | fromCharString | fromWordString | fromString =>
    refine call_next h ?_
    split
    · exact handsBack_reply _
    · exact handsBack_raiseFault _ rfl
  case fromHexStream | fromCharStream =>
    refine call_next h ?_
    dsimp only
    split
    · exact handsBack_of_setReader (handsBack_replyError _)
    · exact handsBack_of_setReader (handsBack_reply _)
  case nextState =>
    refine call_next h ?_
    split
    · exact handsBack_raiseFault _ rfl
    · exact handsBack_reply _
  case pathOf =>
    refine call_next h ?_
    split
    · exact handsBack_reply _
    · exact handsBack_raiseFault _ rfl
    · exact handsBack_raiseFault _ rfl
  case gotoNextState | goThruTapSequence => exact call_next h (handsBack_replyOrFault _ _ rfl)
  case gotoState d =>
    cases d with
    | invalid => exact call_next h (handsBack_raiseFault _ rfl)
    | state d => exact call_next h (handsBack_reply _)
  case sendRecvBitstream =>
    refine call_next h ?_
    rw [work, sendRecv]
    split
    · exact handsBack_of_setHolder (handsBack_reply _)
    · exact handsBack_of_setHolder (handsBack_raiseFault _ rfl)
  case loadIrThenDr =>
    refine call_next h ?_
    rw [work, loadIrThenDr]
    split
    · exact handsBack_of_setHolder (handsBack_reply _)
    · exact handsBack_of_setHolder (handsBack_raiseFault _ rfl)
  case getNumberOfDevices | getIdcodes | svfRun => exact call_next h handsBack_self
  case trst | pio | piomap | frequency | endir | enddr | state | hir | hdr | tir | tdr | sir | sdr | runtest =>
    exact command_next h rfl rfl

/-! ## Pulses and the tracker -/

/-- The pulses `t` has beyond those of `s` are `evs`, and the tracker has followed them (10_state.md R32). -/
structure Tracks (s t : State) (evs : List PulseEvent) : Prop where
  trace : t.trace = s.trace ++ evs
  tap : t.tap = walk s.tap (evs.map PulseEvent.tms)

theorem tracks_of_moves {s t : State} {evs : List PulseEvent} (h : Moves s t evs) : Tracks s t evs := ⟨h.trace, h.tap⟩

theorem tracks_self {s t : State} (trace : t.trace = s.trace) (tap : t.tap = s.tap) : Tracks s t [] :=
  ⟨by rw [trace, List.append_nil], tap⟩

theorem tracks_trans {s t u : State} {e f : List PulseEvent} (h : Tracks s t e) (k : Tracks t u f) :
    Tracks s u (e ++ f) :=
  ⟨by rw [k.trace, h.trace, List.append_assoc], by rw [k.tap, h.tap, List.map_append, walk_append]⟩

theorem tracks_congr {s t u : State} {evs : List PulseEvent} (h : Tracks s t evs) (trace : u.trace = t.trace)
    (tap : u.tap = t.tap) : Tracks s u evs := ⟨trace.trans h.trace, tap.trans h.tap⟩

/-! ## The chain operations (43_chain.md R251, R253) -/

theorem countDevices_tracks (c : Params) (s : State) : ∃ evs, Tracks s (countDevices c s).2 evs := by
  obtain ⟨evs, hm⟩ := countCapture_moves c s
  exact ⟨evs, tracks_congr (tracks_of_moves hm) (setNumdev_trace ..) (setNumdev_tap ..)⟩

theorem numberOfDevices_tracks (c : Params) (s : State) : ∃ evs, Tracks s (numberOfDevices c s) evs := by
  obtain ⟨evs, h⟩ := countDevices_tracks c s
  exact ⟨evs, tracks_congr h (by rw [numberOfDevices]) (by rw [numberOfDevices])⟩

theorem idcodes_tracks (c : Params) (s : State) : ∃ evs, Tracks s (idcodes c s) evs := by
  obtain ⟨e, he⟩ := countDevices_tracks c s
  obtain ⟨e', he'⟩ := numberOfDevices_tracks c s
  rcases hd : (countDevices c s).1 with _ | _ | d
  · exact ⟨e', tracks_congr he' (by rw [idcodes_of_none hd]) (by rw [idcodes_of_none hd])⟩
  · exact ⟨e', tracks_congr he' (by rw [idcodes_of_zero hd]) (by rw [idcodes_of_zero hd])⟩
  · obtain ⟨f, hf⟩ := idcodeCapture_moves c (d + 1) (countDevices c s).2
    rw [idcodes_of_pos (Nat.succ_pos d) hd]
    exact ⟨e ++ f, tracks_congr (tracks_trans he (tracks_of_moves hf)) (by simp) (by simp)⟩

theorem countDevices_frame (c : Params) (s : State) :
    transportOnly { s with numdev := (countDevices c s).2.numdev } (countDevices c s).2 := by
  obtain ⟨_, hm⟩ := countCapture_moves c s
  exact congrArg (setNumdev (countDevices c s).1) hm.only

/-- Beside the transport, `get_idcodes` writes `x[NUMDEV]` as the count does, `x[IDCODES]` and its return value. -/
theorem idcodes_frame (c : Params) (s : State) : transportOnly { s with
      numdev := (numberOfDevices c s).numdev, idcodes := (idcodes c s).idcodes, outcome := (idcodes c s).outcome }
    (idcodes c s) := by
  have count := numberOfDevices_frame c s
  rcases hd : (countDevices c s).1 with _ | _ | d
  · rw [idcodes_of_none hd]
    exact congrArg (fun u : State => { u with idcodes := [] }) count
  · rw [idcodes_of_zero hd]
    exact congrArg (fun u : State => { u with idcodes := [], outcome := some (.ok (.bitstreams [])) }) count
  · obtain ⟨_, hf⟩ := idcodeCapture_moves c (d + 1) (countDevices c s).2
    rw [idcodes_of_pos (Nat.succ_pos d) hd, numberOfDevices_of_some hd]
    exact transportOnly_reply_setIdcodes _ _ (transportOnly_trans (countDevices_frame c s) hf.only)

theorem idcodes_length (c : Params) (s : State) : ∀ b ∈ (idcodes c s).idcodes, b.length = 32 := by
  rcases hd : (countDevices c s).1 with _ | _ | d
  · rw [idcodes_of_none hd]
    exact nofun
  · rw [idcodes_of_zero hd]
    exact nofun
  · rw [idcodes_of_pos (Nat.succ_pos d) hd]
    intro b hb
    obtain ⟨k, hk, rfl⟩ := List.mem_map.1 hb
    have bound := List.mem_range.1 hk
    rw [List.length_take, List.length_drop, idcodeCapture, loadIrDr_length, zeros_length]
    omega

theorem numdev_numberOfDevices (c : Params) (s : State) : (numberOfDevices c s).numdev = -1 ∨
    0 ≤ (numberOfDevices c s).numdev ∧ (numberOfDevices c s).numdev ≤ Int.ofNat c.maxChainDevices := by
  cases hd : (countDevices c s).1 with
  | none => exact .inl (numdev_eq_neg_one_iff.2 hd)
  | some d =>
    rw [(numdev_eq_ofNat_iff d).2 hd]
    exact .inr ⟨Int.natCast_nonneg d, Int.ofNat_le.2 (countDevices_le c s d hd)⟩

/-! ## All the instructions that pulse -/

theorem ite_moves {p : Prop} [Decidable p] {s t : State} (h : ∃ evs, Moves s t evs) :
    ∃ evs, Moves s (if p then t else s) evs := by
  split
  · exact h
  · exact ⟨[], Moves.refl s⟩

/-- Every instruction but these two leaves the tracker where its pulses have taken it (70_reset_and_hazards.md R380,
R381). -/
theorem work_tracks (i : Instr) (s : State) (hp : ∀ n, i ≠ .pulseTck n) (hu : ∀ n, i ≠ .updateState n) :
    ∃ evs, Tracks s (work i s) evs := by
  have still {t : State} (trace : t.trace = s.trace) (tap : t.tap = s.tap) : ∃ evs, Tracks s t evs :=
    ⟨[], tracks_self trace tap⟩
  have moved {t : State} (h : ∃ evs, Moves s t evs) : ∃ evs, Tracks s t evs := h.imp fun _ => tracks_of_moves
  cases i
  case pulseTck n => exact absurd rfl (hp n)
  case updateState n => exact absurd rfl (hu n)
  case gotoNextState => exact moved (gotoNext_moves ..)
  case goThruTapSequence => exact moved (goThru_moves ..)
  case gotoState d =>
    cases d with
    | invalid => exact still rfl rfl
    | state d => exact moved ((gotoTap_spec _ d s).imp fun _ h => h.1)
  case initTap => exact moved ((initTap_spec _ s).imp fun _ h => h.1)
  case sendRecvBitstream a b x => exact moved (ite_moves ((scan_moves _ a b x s).imp fun _ h => h.1))
  case loadIrThenDr => exact moved (ite_moves (loadIrDr_moves ..))
  case getNumberOfDevices => exact numberOfDevices_tracks ..
  case getIdcodes => exact idcodes_tracks ..
  case state d ds => exact moved ((gotoEach_moves _ (d :: ds) s).imp fun _ h => h.1)
  case sir | sdr => exact moved (scanRegister_moves ..)
  case runtest n =>
    obtain ⟨evs, hd, -, -, tap, -⟩ := runTest_drives Config.actual n s
    exact ⟨evs, hd.trace, tap⟩
  all_goals exact still rfl rfl

/-- An instruction that neither navigates nor scans. -/
theorem work_still (i : Instr) (s : State) (h : moves i = false) :
    ((∀ n, i ≠ .updateState n) → (work i s).tap = s.tap) ∧ ((∀ v, i ≠ .setTms v) → (work i s).tms = s.tms) ∧
    ((∀ n, i ≠ .pulseTck n) → (work i s).trace = s.trace) := by
  cases i
  case updateState n => exact ⟨fun hn => absurd rfl (hn n), fun _ => rfl, fun _ => rfl⟩
  case setTms v => exact ⟨fun _ => rfl, fun hv => absurd rfl (hv v), fun _ => rfl⟩
  case pulseTck n =>
    obtain ⟨-, -, -, -, tap, tms, -⟩ := pulses_spec Config.actual n s
    exact ⟨fun _ => tap, fun _ => tms, fun hn => absurd rfl (hn n)⟩
  case gotoNextState | gotoState | goThruTapSequence | initTap | sendRecvBitstream | loadIrThenDr |
      getNumberOfDevices | getIdcodes | state | sir | sdr | runtest => cases h
  all_goals exact ⟨fun _ => rfl, fun _ => rfl, fun _ => rfl⟩

theorem work_tdi (i : Instr) (s : State) (h : drivesTdi i = false) : (work i s).tdi = s.tdi := by
  cases i
  case gotoNextState => exact gotoNext_tdi ..
  case goThruTapSequence => exact goThru_tdi ..
  case gotoState d =>
    cases d with
    | invalid => rfl
    | state d => exact gotoTap_tdi ..
  case initTap => exact (initTap_pins ..).2
  case pulseTck n =>
    obtain ⟨-, -, -, -, -, -, tdi⟩ := pulses_spec Config.actual n s
    exact tdi
  case state d ds =>
    obtain ⟨-, -, -, tdi⟩ := gotoEach_moves Config.actual (d :: ds) s
    exact tdi
  case runtest n =>
    obtain ⟨-, -, -, -, -, -, tdi⟩ := runTest_drives Config.actual n s
    exact tdi
  case setTdi | sendRecvBitstream | loadIrThenDr | getNumberOfDevices | getIdcodes | sir | sdr => cases h
  all_goals rfl

/-! ## The registers with a writer (R33 to R40) -/

/-- `u` differs from `r` at most in the tracker, the transport's levels and trace, and the outcome. -/
def DiffersInPulses (r u : State) : Prop := u = { r with
  tap := u.tap, tms := u.tms, tdi := u.tdi, trace := u.trace, accesses := u.accesses, outcome := u.outcome }

theorem differsInPulses_of_transportOnly {r u : State} (h : transportOnly r u) : DiffersInPulses r u := by
  exact (congrArg (fun v : State => { v with outcome := u.outcome }) h :)

theorem differsInPulses_of_moves {s u : State} (h : ∃ evs, Moves s u evs) : DiffersInPulses s u := by
  obtain ⟨_, hm⟩ := h
  exact differsInPulses_of_transportOnly hm.only

theorem work_differsInPulses (i : Instr) (s : State) : DiffersInPulses (written i s) (work i s) := by
  cases i
  case gotoNextState => exact differsInPulses_of_moves (gotoNext_moves ..)
  case goThruTapSequence => exact differsInPulses_of_moves (goThru_moves ..)
  case gotoState d =>
    cases d with
    | invalid => rfl
    | state d => exact differsInPulses_of_moves ((gotoTap_spec _ d s).imp fun _ h => h.1)
  case initTap => exact differsInPulses_of_moves ((initTap_spec _ s).imp fun _ h => h.1)
  case pulseTck n =>
    obtain ⟨_, hd, -⟩ := pulses_spec Config.actual n s
    exact differsInPulses_of_transportOnly hd.only
  case sendRecvBitstream a b x =>
    exact differsInPulses_of_moves (ite_moves ((scan_moves _ a b x s).imp fun _ h => h.1))
  case loadIrThenDr => exact differsInPulses_of_moves (ite_moves (loadIrDr_moves ..))
  case getNumberOfDevices =>
    exact (differsInPulses_of_transportOnly (numberOfDevices_frame Config.actual s) :)
  case getIdcodes =>
    exact (differsInPulses_of_transportOnly (idcodes_frame Config.actual s) :)
  case state d ds => exact differsInPulses_of_moves ((gotoEach_moves _ (d :: ds) s).imp fun _ h => h.1)
  case sir | sdr => exact differsInPulses_of_moves (scanRegister_moves ..)
  case runtest n =>
    obtain ⟨_, hd, -⟩ := runTest_drives Config.actual n s
    exact differsInPulses_of_transportOnly hd.only
  all_goals rfl

theorem work_fault (i : Instr) (s : State) : (work i s).fault = s.fault := by
  rw [work_differsInPulses i s]
  cases i <;> rfl

/-- The registers with a writer, the text, the TCK level, the call and the poll's answer are those of `r`. -/
structure SameRegisters (r t : State) : Prop where
  endir : t.endir = r.endir
  enddr : t.enddr = r.enddr
  hir : t.hir = r.hir
  hdr : t.hdr = r.hdr
  tir : t.tir = r.tir
  tdr : t.tdr = r.tdr
  numdev : t.numdev = r.numdev
  idcodes : t.idcodes = r.idcodes
  pc : t.pc = r.pc
  text : t.text = r.text
  running : t.running = r.running
  tck : t.tck = r.tck
  call : t.call = r.call
  cancel : t.cancel = r.cancel

theorem sameRegisters_of_handsBack {i : Instr} {r u t : State} (h : DiffersInPulses r u) (back : HandsBack i u t) :
    SameRegisters r t := by
  rw [back.only, h]
  constructor <;> rfl

/-- Which registers an instruction leaves: those of the context and of the text. -/
theorem written_context (i : Instr) (s : State) (hx : ∀ x, i ≠ .svfRun x) :
    ((∀ d, i ≠ .endir d) → (written i s).endir = s.endir) ∧
    ((∀ d, i ≠ .enddr d) → (written i s).enddr = s.enddr) ∧
    ((∀ n h o, i ≠ .hir n h o) → (written i s).hir = s.hir) ∧
    ((∀ n h o, i ≠ .hdr n h o) → (written i s).hdr = s.hdr) ∧
    ((∀ n h o, i ≠ .tir n h o) → (written i s).tir = s.tir) ∧
    ((∀ n h o, i ≠ .tdr n h o) → (written i s).tdr = s.tdr) ∧
    (written i s).pc = s.pc ∧ (written i s).text = s.text ∧ (written i s).running = s.running := by
  cases i
  case svfRun x => exact absurd rfl (hx x)
  all_goals simp [written]

/-- And those of the chain and of the host. -/
theorem written_rest (i : Instr) (s : State) :
    (i ≠ .getNumberOfDevices → i ≠ .getIdcodes → (written i s).numdev = s.numdev) ∧
    (i ≠ .getIdcodes → (written i s).idcodes = s.idcodes) ∧ ((∀ v, i ≠ .setTck v) → (written i s).tck = s.tck) ∧
    (written i s).call = s.call ∧ (written i s).cancel = s.cancel := by
  cases i <;> simp [written, startRun]

/-! ## What every instruction keeps -/

theorem handsBack_transport {i : Instr} {u t : State} (back : HandsBack i u t) :
    t.tap = u.tap ∧ t.tms = u.tms ∧ t.tdi = u.tdi ∧ t.trace = u.trace := by
  rw [back.only]
  exact ⟨rfl, rfl, rfl, rfl⟩

section
variable {i : Instr} {s t : State} (h : exec i s = .next t)
include h

theorem exec_sameRegisters : SameRegisters (written i s) t := by
  obtain ⟨-, -, back⟩ := exec_next h
  exact sameRegisters_of_handsBack (work_differsInPulses i s) back

theorem exec_fault : t.fault = none ∨ mayFault i = true ∧ t.outcome = none := by
  obtain ⟨fault, -, back⟩ := exec_next h
  have none := (work_fault i s).trans fault
  rw [← none]
  exact back.fault

theorem exec_tracks (hp : ∀ n, i ≠ .pulseTck n) (hu : ∀ n, i ≠ .updateState n) : ∃ evs, Tracks s t evs := by
  obtain ⟨-, -, back⟩ := exec_next h
  obtain ⟨tap, -, -, trace⟩ := handsBack_transport back
  obtain ⟨evs, tracks⟩ := work_tracks i s hp hu
  exact ⟨evs, tracks_congr tracks trace tap⟩

theorem exec_grows : traceGrows s t := by
  obtain ⟨-, -, back⟩ := exec_next h
  obtain ⟨-, -, -, trace⟩ := handsBack_transport back
  rw [traceGrows, trace]
  by_cases hp : ∃ n, i = .pulseTck n
  · obtain ⟨n, rfl⟩ := hp
    obtain ⟨_, hd, -⟩ := pulses_spec Config.actual n s
    exact hd.grows
  by_cases hu : ∃ n, i = .updateState n
  · obtain ⟨n, rfl⟩ := hu
    exact List.prefix_rfl
  obtain ⟨evs, tracks⟩ := work_tracks i s (fun n e => hp ⟨n, e⟩) fun n e => hu ⟨n, e⟩
  exact ⟨evs, tracks.trace.symm⟩

end

/-- Settles O16: the pulses are those of the work, which the tracker has followed. -/
theorem trackerFollowsPulses : Obligations.TrackerFollowsPulses := by
  intro i s t hp hu h
  obtain ⟨evs, tracks⟩ := exec_tracks h hp hu
  have pulses : newPulses s t = evs := by rw [newPulses, tracks.trace, List.drop_left]
  refine ⟨⟨evs, tracks.trace.symm⟩, ?_⟩
  rw [trackerFollows, newTms, pulses, tracks.tap]

/-- Settles O17: each register is that of `written`, or of the work where it is the tracker's or the transport's. -/
theorem registersHaveTheirWriters : Obligations.RegistersHaveTheirWriters := by
  intro i s t h
  obtain ⟨-, -, back⟩ := exec_next h
  obtain ⟨tap, tms, tdi, trace⟩ := handsBack_transport back
  have same := exec_sameRegisters h
  obtain ⟨numdev, idcodes, tck, call, cancel⟩ := written_rest i s
  refine ⟨fun hx => ?_, fun h1 h2 => same.numdev.trans (numdev h1 h2), fun h1 => same.idcodes.trans (idcodes h1),
    fun hf => ?_, fun hf => ?_, fun hm hn => ?_, fun hm hn => ?_, fun hd => tdi.trans (work_tdi i s hd),
    fun hm hn => ?_, fun hn => same.tck.trans (tck hn), same.call.trans call, same.cancel.trans cancel⟩
  · obtain ⟨endir, enddr, hir, hdr, tir, tdr, pc, text, running⟩ := written_context i s hx
    exact ⟨fun hn => same.endir.trans (endir hn), fun hn => same.enddr.trans (enddr hn),
      fun hn => same.hir.trans (hir hn), fun hn => same.hdr.trans (hdr hn), fun hn => same.tir.trans (tir hn),
      fun hn => same.tdr.trans (tdr hn), same.pc.trans pc, same.text.trans text, same.running.trans running⟩
  · exact (exec_fault h).resolve_right fun may => absurd (hf.symm.trans may.1) nofun
  · obtain ⟨-, noOutcome⟩ := (exec_fault h).resolve_left hf
    exact noOutcome
  · obtain ⟨stillTap, -, -⟩ := work_still i s hm
    exact tap.trans (stillTap hn)
  · obtain ⟨-, stillTms, -⟩ := work_still i s hm
    exact tms.trans (stillTms hn)
  · obtain ⟨-, -, stillTrace⟩ := work_still i s hm
    exact trace.trans (stillTrace hn)

end Sys2Proof.Proofs

/-!
Steps and streams (44_svf.md R271 to R273, R289, R290; 60_exceptions.md R333, R344, R352; 70_reset_and_hazards.md R371).
A pass of the command loop is `fetch`, one lemma for each of its cases; the two exits of a stream do the same to the
transport, which is said once.
-/
namespace Sys2Proof.Proofs
open Machine

/-! ## The stuck block and the waiting block -/

section
variable {s : State} {f : FaultCode}

theorem exec_stuck (i : Instr) (hf : s.fault = some f) : exec i s = .fault (.stuck f) := by
  obtain ⟨body, hbody⟩ := exec_shape i s
  rw [hbody]
  split
  · rw [onCommand, hf]
  · rw [onCall, hf]

theorem exec_concurrent (i : Instr) (hf : s.fault = none) (hr : s.running = true) (hi : i.isSvf = false) :
    exec i s = .refused .concurrentUse := by
  obtain ⟨body, hbody⟩ := exec_shape i s
  rw [hbody, if_neg (by simp [hi]), onCall, hf]
  exact if_pos hr

theorem step_concurrent (hf : s.fault = none) (hr : s.running = true) (hc : s.call ≠ none) :
    step s = .refused .concurrentUse := by
  rw [step, hf]
  exact (if_pos hr).trans (if_pos (Option.isSome_iff_ne_none.2 hc))

theorem step_waits (h : s.ready) (hc : s.call = none) : step s = .next s := by
  simp [step, h.1, h.2, hc]

end

/-- Settles O9: a step and every meaning look at the fault mark first. -/
theorem stuckBlockTakesNoStep : Obligations.StuckBlockTakesNoStep := fun s f hf =>
  ⟨by rw [step, hf], fun i => exec_stuck i hf⟩

/-- Settles O10: so do they at the running stream. -/
theorem concurrentUseIsRefused : Obligations.ConcurrentUseIsRefused := fun _ hf hr =>
  ⟨step_concurrent hf hr, fun i => exec_concurrent i hf hr⟩

/-- Settles O6. -/
theorem stepRunsTheCall : Obligations.StepRunsTheCall := by
  intro s bytes i h hc hd
  have call : step s = exec i (takeCall s) := by simp [step, h.1, h.2, hc, hd]
  exact call

/-- Settles O11. -/
theorem blockWaitsForACall : Obligations.BlockWaitsForACall := by
  intro s h
  refine ⟨step_waits h, fun bytes e hc hd => ?_⟩
  simp [step, h.1, h.2, hc, hd]

/-! ## A pass of the command loop (R272) -/

section
variable {c : Params} {s : State}

theorem fetch_blank (h : (s.text.drop s.pc).all isSpace = true) : fetch c s = .ended (endRun (.ok .none) s) := by
  rw [fetch, remaining_eq, if_pos h]

theorem fetch_cancelled (h : (s.text.drop s.pc).all isSpace = false) (hc : s.cancel = true) :
    fetch c s = .ended (cancelExit c (notePoll c s)) := by
  rw [fetch, remaining_eq, if_neg (by simp [h]), if_pos hc]

theorem fetch_polled (h : (s.text.drop s.pc).all isSpace = false) (hc : s.cancel = false) :
    fetch c s = fetchCommand c (notePoll c s) := by
  rw [fetch, remaining_eq, if_neg (by simp [h]), if_neg (by simp [hc])]

theorem fetchCommand_unterminated (h : semicolon ∉ s.text.drop s.pc) : fetchCommand c s =
    .ended (errorExit c .unterminatedCommand s.pc (firstTokenText (s.text.drop s.pc)) s) := by
  rw [fetchCommand, remaining_eq, splitCommand_eq_none _ h]

variable {command rest : List Byte} (hsplit : s.text.drop s.pc = command ++ semicolon :: rest)
  (hsemi : semicolon ∉ command)
include hsplit hsemi

theorem fetchCommand_malformed {e : SvfError} (he : decodeCommand c.optionalFields command = .error e) :
    fetchCommand c s = .ended (errorExit c e s.pc (firstTokenText command) s) := by
  rw [fetchCommand, remaining_eq, hsplit, splitCommand_append _ _ hsemi]
  dsimp only
  rw [he]

theorem fetchCommand_command {i : Instr} (hi : decodeCommand c.optionalFields command = .ok i) :
    fetchCommand c s = .command i (s.pc + command.length + 1) s := by
  rw [fetchCommand, remaining_eq, hsplit, splitCommand_append _ _ hsemi]
  dsimp only
  rw [hi]

omit hsemi in
theorem not_blank_of_semicolon : (s.text.drop s.pc).all isSpace = false := by
  have hspace : isSpace semicolon = false := by decide
  rw [hsplit, List.all_append, List.all_cons, hspace, Bool.false_and, Bool.and_false]

end

/-- Settles O7: a text with a `;` is not blank, so the poll is made and the command fetched. -/
theorem stepRunsTheCommand : Obligations.StepRunsTheCommand := by
  intro s command rest i hs hc hsplit hsemi hi
  rw [step_inStream s hs, fetch_polled (not_blank_of_semicolon hsplit) hc,
    fetchCommand_command (s := notePoll Config.actual s) hsplit hsemi hi]
  rfl

/-- Settles O21. -/
theorem streamEndsNormally : Obligations.StreamEndsNormally := by
  intro s hs hblank
  rw [step_inStream s hs, fetch_blank hblank]
  rfl

/-- Settles O25: the call does the stream start and ends. -/
theorem svfRunStartsTheStream : Obligations.SvfRunStartsTheStream := fun text s h =>
  ⟨startRun text s, show execSvfRun text s = _ from onCall_ready s _ h, rfl, fun hc => ⟨h.1, rfl, hc⟩, rfl⟩

/-- Settles O40: the body of each of the four is the identity. -/
theorem ignoredCommandsDoNothing : Obligations.IgnoredCommandsDoNothing := fun ts s hs =>
  ⟨show execTrst ts s = _ from onCommand_ready s _ hs, show execPio ts s = _ from onCommand_ready s _ hs,
    show execPiomap ts s = _ from onCommand_ready s _ hs, show execFrequency ts s = _ from onCommand_ready s _ hs⟩

/-! ## Placed instructions -/

theorem placeText_call {i : Instr} (s : State) (h : i.wellFormed = true) (hi : i.isSvf = false) :
    placeText (encode i) s = { s with running := false, call := some (encode i) } := by
  rw [placeText, isSvfText_encode i h, hi, if_neg (by decide)]

theorem placeText_command {i : Instr} (s : State) (h : i.wellFormed = true) (hi : i.isSvf = true) :
    placeText (encode i) s = { s with text := encode i, pc := 0, running := true, call := none, cancel := false } := by
  rw [placeText, isSvfText_encode i h, hi, if_pos rfl, (encode_clean i h).2.1]

/-- Settles O8: the placed text is the host's call, or the whole text of a stream, and is decoded (O1). -/
theorem placedInstructionRuns : Obligations.PlacedInstructionRuns := by
  intro i s h ho hf
  refine ⟨fun hi => ?_, fun hi => ?_⟩
  · rw [placeText_call s h hi]
    exact stepRunsTheCall _ (encode i) i ⟨hf, rfl⟩ rfl (decodeCall_encode h hi)
  · rw [placeText_command s h hi]
    have run := stepRunsTheCommand
      { s with text := encode i, pc := 0, running := true, call := none, cancel := false }
      (renderTokens (encodeTokens i)) [] i ⟨hf, rfl, rfl⟩ rfl rfl (encode_clean i h).1
      (decodeCommand_encode h hi fun _ => ho)
    have len : (encode i).length = 0 + (renderTokens (encodeTokens i)).length + 1 := by simp [encode]
    rw [len]
    exact run

/-! ## The exits of a stream (R273, R289) -/

/-- The end of a run with an outcome, through `init_tap`: the error exit and the cancellation exit. -/
theorem exit_effect {c : Params} {o : OpOutcome} {s t : State} (ht : t = endRun o (initTap c (notePoll c s))) :
    t.outcome = some o ∧ t.running = false ∧ t.tap = .testLogicReset ∧ t.tms = true ∧ t.tdi = s.tdi ∧
    traceGrows s t ∧ newTms s t = [true, true, true, true, true] ∧
    transportOnly { s with running := false, outcome := t.outcome, cancel := t.cancel } t := by
  subst ht
  obtain ⟨evs, hm, tms, -, tap, tmsLeft, tdiLeft⟩ := initTap_spec c (notePoll c s)
  have only := (transportOnly_iff _ _).1 hm.only
  refine ⟨rfl, rfl, tap, tmsLeft, tdiLeft, hm.grows, (newTms_of_drives hm.toDrives).trans tms, ?_⟩
  simp only [transportOnly_iff, endRun_outcome, endRun_running]
  simp [only]

/-- Settles O22. -/
theorem cancelledStreamEnds : Obligations.CancelledStreamEnds := by
  intro s hs hc hblank
  rw [step_inStream s hs, fetch_cancelled hblank hc]
  exact ⟨_, rfl, exit_effect rfl⟩

/-- Settles O23. -/
theorem malformedCommandEndsStream : Obligations.MalformedCommandEndsStream := by
  intro s command rest e hs hc hsplit hsemi he
  rw [step_inStream s hs, fetch_polled (not_blank_of_semicolon hsplit) hc,
    fetchCommand_malformed (s := notePoll Config.actual s) hsplit hsemi he]
  exact ⟨_, rfl, exit_effect rfl⟩

/-- Settles O24. -/
theorem unterminatedCommandEndsStream : Obligations.UnterminatedCommandEndsStream := by
  intro s hs hc hblank hsemi
  rw [step_inStream s hs, fetch_polled hblank hc, fetchCommand_unterminated (s := notePoll Config.actual s) hsemi]
  exact ⟨_, rfl, exit_effect rfl⟩

/-! ## Invariants of every step (R30, R46) -/

/-- Settles O13: no count, no IDCODE, and the pointer at 0. -/
theorem resetRegistersAreLegal : Obligations.ResetRegistersAreLegal := ⟨.inl rfl, nofun, Nat.le_refl 0⟩

theorem inv_congr {s t : State} (numdev : t.numdev = s.numdev) (idcodes : t.idcodes = s.idcodes) (pc : t.pc = s.pc)
    (text : t.text = s.text) (h : s.inv) : t.inv := by
  rw [State.inv, State.numdevLegal, State.idcodesLegal, State.pcLegal, numdev, idcodes, pc, text]
  exact h

theorem written_inv (i : Instr) {s : State} (h : s.inv) : (written i s).inv := by
  obtain ⟨numdev, idcodes, pc⟩ := h
  cases i
  case svfRun => exact ⟨numdev, idcodes, Nat.zero_le _⟩
  case getNumberOfDevices => exact ⟨numdev_numberOfDevices Config.actual s, idcodes, pc⟩
  case getIdcodes => exact ⟨numdev_numberOfDevices Config.actual s, idcodes_length Config.actual s, pc⟩
  all_goals exact ⟨numdev, idcodes, pc⟩

theorem exec_inv {i : Instr} {s t : State} (h : exec i s = .next t) (hs : s.inv) : t.inv :=
  have same := exec_sameRegisters h
  inv_congr same.numdev same.idcodes same.pc same.text (written_inv i hs)

theorem exit_inv {c : Params} {o : OpOutcome} {s t : State} (ht : t = endRun o (initTap c (notePoll c s)))
    (hs : s.inv) : t.inv := by
  obtain ⟨-, -, -, -, -, -, -, only⟩ := exit_effect ht
  obtain ⟨-, -, -, -, -, -, numdev, idcodes, pc, -, -, -, text, -⟩ := (transportOnly_iff _ _).1 only
  exact inv_congr numdev idcodes pc text hs

theorem command_ne_svfRun {i : Instr} (hi : i.isSvf = true) (x : List Byte) : i ≠ .svfRun x := by
  rintro rfl
  cases hi

/-- Settles O14: a call and a command keep the invariant, and a pass of the loop moves the pointer within the text. -/
theorem stepKeepsRegistersLegal : Obligations.StepKeepsRegistersLegal := by
  intro s t hs h
  obtain ⟨-, ⟨rfl, -⟩ | ⟨i, hi, -⟩ | ⟨-, rfl, -⟩ | ⟨-, rfl, -⟩ | ⟨-, -, e, k, rfl⟩ |
    ⟨-, i, u, p, r, hi, hu, hsplit, rfl⟩⟩ := step_cases s t h
  · exact hs
  · exact exec_inv hi hs
  · exact hs
  · exact exit_inv rfl hs
  · exact exit_inv rfl hs
  · obtain ⟨numdev, idcodes, -⟩ := exec_inv hu (s := notePoll Config.actual s) hs
    obtain ⟨-, -, -, -, -, -, -, text, -⟩ := written_context i (notePoll Config.actual s) (command_ne_svfRun hi)
    have same := (exec_sameRegisters hu).text.trans text
    have len := congrArg List.length hsplit
    refine ⟨numdev, idcodes, ?_⟩
    rw [List.length_drop, List.length_append, List.length_cons] at len
    rw [State.pcLegal, setPc_pc, setPc_text, same]
    show _ ≤ s.text.length
    omega

/-- Settles O15. -/
theorem stepOnlyAddsPulses : Obligations.StepOnlyAddsPulses := by
  intro s t h
  obtain ⟨-, ⟨rfl, -⟩ | ⟨i, hi, -⟩ | ⟨-, rfl, -⟩ | ⟨-, rfl, -⟩ | ⟨-, -, e, k, rfl⟩ |
    ⟨-, i, u, p, r, -, hu, -, rfl⟩⟩ := step_cases s t h
  · exact List.prefix_rfl
  · exact (exec_grows hi :)
  · exact List.prefix_rfl
  · obtain ⟨-, -, -, -, -, grows, -⟩ := exit_effect (s := s) rfl
    exact grows
  · obtain ⟨-, -, -, -, -, grows, -⟩ := exit_effect (s := s) rfl
    exact grows
  · exact (exec_grows hu :)

/-! ## Streams end (R290) -/

theorem mayFault_of_isSvf {i : Instr} (hi : i.isSvf = true) : mayFault i = false := by
  cases i
  case trst | pio | piomap | frequency | endir | enddr | state | hir | hdr | tir | tdr | sir | sdr | runtest => rfl
  all_goals cases hi

theorem exec_command_next {i : Instr} {s : State} (hi : i.isSvf = true) (hf : s.fault = none) :
    ∃ t, exec i s = .next t := by
  obtain ⟨body, hbody⟩ := exec_shape i s
  rw [hbody, if_pos hi, onCommand_ready s body hf]
  exact ⟨_, rfl⟩

theorem fetch_command {c : Params} {s u : State} {i : Instr} {after : Nat} (h : fetch c s = .command i after u) :
    i.isSvf = true ∧ u = notePoll c s := by
  revert h
  rw [fetch, fetchCommand]
  split
  · exact nofun
  · split
    · exact nofun
    · split
      · exact nofun
      · split
        case h_1 => exact nofun
        case h_2 hdecode =>
          rintro ⟨⟩
          exact ⟨decodeSvf_isSvf _ _ _ hdecode, rfl⟩

theorem step_inStream_next {s : State} (hs : s.inStream) : ∃ t, step s = .next t := by
  rw [step_inStream s hs]
  cases hfetch : fetch Config.actual s with
  | ended t => exact ⟨t, rfl⟩
  | command i after u =>
    obtain ⟨hi, rfl⟩ := fetch_command hfetch
    obtain ⟨t, ht⟩ := exec_command_next (s := notePoll Config.actual s) hi hs.1
    exact ⟨setPc after t, congrArg (mapNext (setPc after)) ht⟩

/-- The stream has ended with one of the outcomes of R290. -/
def StreamOver (t : State) : Prop :=
  t.ready ∧ t.call = none ∧ ∃ o, t.outcome = some o ∧ o.ofStream = true

/-- The stream goes on, the pointer nearer to the end of the text. -/
def StreamOn (s t : State) : Prop :=
  t.inStream ∧ t.text = s.text ∧ s.pc < t.pc ∧ t.pc ≤ s.text.length

theorem exit_over {c : Params} {o : OpOutcome} (ho : o.ofStream = true) {s t : State} (hs : s.inStream)
    (ht : t = endRun o (initTap c (notePoll c s))) : StreamOver t := by
  obtain ⟨fault, -, call⟩ := hs
  obtain ⟨outcome, running, -, -, -, -, -, only⟩ := exit_effect ht
  obtain ⟨-, -, -, -, -, -, -, -, -, hfault, -, -, -, -, hcall, -⟩ := (transportOnly_iff _ _).1 only
  exact ⟨⟨hfault.trans fault, running⟩, hcall.trans call, o, outcome, ho⟩

theorem command_on {i : Instr} {s u : State} {command rest : List Byte} (hs : s.inStream) (hi : i.isSvf = true)
    (hu : exec i (notePoll Config.actual s) = .next u) (hsplit : s.text.drop s.pc = command ++ semicolon :: rest) :
    StreamOn s (setPc (s.pc + command.length + 1) u) := by
  obtain ⟨-, running, call⟩ := hs
  obtain ⟨-, -, -, -, -, -, -, text, hrunning⟩ := written_context i (notePoll Config.actual s) (command_ne_svfRun hi)
  obtain ⟨-, -, -, hcall, -⟩ := written_rest i (notePoll Config.actual s)
  have same := exec_sameRegisters hu
  have len := congrArg List.length hsplit
  rw [List.length_drop, List.length_append, List.length_cons] at len
  have fault : u.fault = none :=
    (exec_fault hu).resolve_right fun may => absurd ((mayFault_of_isSvf hi).symm.trans may.1) nofun
  refine ⟨⟨fault, same.running.trans (hrunning.trans running), same.call.trans (hcall.trans call)⟩,
    same.text.trans text, ?_, ?_⟩
  all_goals
    rw [setPc_pc]
    omega

/-- A pass of the loop ends the stream or takes it on. -/
theorem step_inStream_cases {s : State} (hs : s.inStream) : ∃ t, step s = .next t ∧ (StreamOver t ∨ StreamOn s t) := by
  obtain ⟨t, ht⟩ := step_inStream_next hs
  refine ⟨t, ht, ?_⟩
  have notReady (h : s.ready) : False := absurd (hs.2.1.symm.trans h.2) nofun
  obtain ⟨-, ⟨-, hr⟩ | ⟨-, -, hr⟩ | ⟨-, rfl, -⟩ | ⟨-, rfl, -⟩ | ⟨-, -, e, k, rfl⟩ |
    ⟨-, i, u, p, r, hi, hu, hsplit, rfl⟩⟩ := step_cases s t ht
  · exact (notReady hr).elim
  · exact (notReady hr).elim
  · exact .inl ⟨⟨hs.1, rfl⟩, hs.2.2, _, rfl, rfl⟩
  · exact .inl (exit_over (o := .cancelled) rfl hs rfl)
  · exact .inl (exit_over (o := .error (.svf e s.pc k)) rfl hs rfl)
  · exact .inr (command_on hs hi hu hsplit)

/-- Settles O19. -/
theorem streamNeverFaults : Obligations.StreamNeverFaults := by
  intro s hs
  obtain ⟨t, ht, ⟨⟨fault, -⟩, -⟩ | ⟨⟨fault, -⟩, -⟩⟩ := step_inStream_cases hs
  · exact ⟨t, ht, fault⟩
  · exact ⟨t, ht, fault⟩

theorem run_ready {s : State} (h : s.ready) (hc : s.call = none) (n : Nat) : core.run n s = .next s := by
  induction n with
  | zero => rfl
  | succ n ih => rw [core_run_succ, step_waits h hc]; exact ih

/-- More steps than bytes are left end the stream, and the block then waits. -/
theorem run_over (n : Nat) {s : State} (hs : s.inStream) (hn : s.text.length - s.pc < n) :
    ∃ t, core.run n s = .next t ∧ StreamOver t := by
  induction n generalizing s with
  | zero => omega
  | succ n ih =>
    obtain ⟨t, ht, ⟨ready, call, outcome⟩ | ⟨hin, text, fwd, le⟩⟩ := step_inStream_cases hs
    · refine ⟨t, ?_, ready, call, outcome⟩
      rw [core_run_succ, ht]
      exact run_ready ready call n
    · rw [core_run_succ, ht]
      exact ih hin (by rw [text]; omega)

/-- Settles O20. -/
theorem streamEnds : Obligations.StreamEnds := by
  intro s hs
  obtain ⟨t, run, ⟨fault, running⟩, -, o, outcome, ho⟩ := run_over _ hs (Nat.lt_succ_self _)
  exact ⟨t, o, run, running, fault, outcome, ho⟩

end Sys2Proof.Proofs

/-!
The pulses of three more operations: `load_ir_then_dr` counted (42_scan.md R240), `STATE` and `RUNTEST` (44_svf.md R280,
R287).
-/
namespace Sys2Proof.Proofs
open Machine

/-- The pulses of `load_ir_then_dr` where both phases run, where one of them does, and where none does. -/
theorem loadTms_length (a : TapState) (i l : Nat) :
    (0 < i → 0 < l → (loadTms a i l).length = (route a .shiftIR).length + i + l + 6) ∧
    (0 < i → l = 0 → (loadTms a i l).length = (route a .shiftIR).length + i + 2) ∧
    (i = 0 → 0 < l → (loadTms a i l).length = (route a .shiftDR).length + l + 2) ∧
    (i = 0 → l = 0 → (loadTms a i l).length = (route a .runTestIdle).length) := by
  have toUpdateIR : (route .exit1IR .updateIR).length = 1 := rfl
  have toShiftDR : (route .updateIR .shiftDR).length = 3 := rfl
  have toUpdateDR : (route .exit1DR .updateDR).length = 1 := rfl
  have fromUpdateIR : (route .updateIR .runTestIdle).length = 1 := rfl
  have fromUpdateDR : (route .updateDR .runTestIdle).length = 1 := rfl
  refine ⟨fun hi hl => ?_, fun hi hl => ?_, fun hi hl => ?_, fun hi hl => ?_⟩
  all_goals
    simp [loadTms, irTms, drTms, afterIr, afterDr, *, Nat.ne_of_gt]
  · omega
  · omega
  · omega

/-- The lengths of the first routes from RunTestIdle and from TestLogicReset. -/
theorem start_route_lengths {a : TapState} {more : Nat}
    (h : a = .runTestIdle ∧ more = 0 ∨ a = .testLogicReset ∧ more = 1) :
    (route a .shiftIR).length = 4 + more ∧ (route a .shiftDR).length = 3 + more ∧
    (route a .runTestIdle).length = more := by
  rcases h with ⟨rfl, rfl⟩ | ⟨rfl, rfl⟩ <;> decide

/-- Settles O37. -/
theorem loadIrThenDrPulseCount : Obligations.LoadIrThenDrPulseCount := by
  intro ir send recv s h hs
  obtain ⟨evs, hm, tms, -⟩ := loadIrDr_spec Config.actual ir send recv s
  have pulses : newPulses s (loadIrDr Config.actual ir send recv s).2 = evs := hm.newPulses_eq
  have count : (newPulses s (loadIrDr Config.actual ir send recv s).2).length =
      (loadTms s.tap ir.length (max send.length recv.length)).length := by
    rw [pulses, ← tms, List.length_map]
  obtain ⟨both, irOnly, drOnly, neither⟩ := loadTms_length s.tap ir.length (max send.length recv.length)
  rw [← count] at both irOnly drOnly neither
  refine ⟨_, exec_loadIrThenDr_start ir send recv h hs, hm.grows, both, irOnly, drOnly, neither, fun more start => ?_⟩
  obtain ⟨toIR, toDR, toIdle⟩ := start_route_lengths start
  exact ⟨fun hi hl => (both hi hl).trans (by omega), fun hi hl => (irOnly hi hl).trans (by omega),
    fun hi hl => (drOnly hi hl).trans (by omega), fun hi hl => (neither hi hl).trans toIdle⟩

/-- Settles O42, by the routes of `gotoEach` one after another. -/
theorem stateVisitsEachState : Obligations.StateVisitsEachState := by
  intro d ds s hs
  obtain ⟨evs, hm, tms, tdi, tdiLeft, tap⟩ := gotoEach_spec Config.actual (d :: ds) s
  refine ⟨_, show execState d ds s = _ from onCommand_ready s _ hs, ?_, hm.grows,
    (newTms_of_drives hm.toDrives).trans tms, (newTdi_of_drives hm.toDrives).trans tdi, tdiLeft, hm.only⟩
  rw [tap, List.getLastD_cons, List.getLastD_cons]

/-- Settles O46: the level chosen is the one that holds a stable state. -/
theorem runtestPulses : Obligations.RuntestPulses := by
  intro n s hs
  obtain ⟨evs, hd, tms, tdi, tap, tmsLeft, tdiLeft⟩ := runTest_drives Config.actual n s
  rw [tms] at tap
  exact ⟨_, show execRuntest n s = _ from onCommand_ready s _ hs, hd.grows, (newTms_of_drives hd).trans tms,
    (newTdi_of_drives hd).trans tdi, tap, fun stable => tap.trans (walk_stable s.tap n stable), tmsLeft, tdiLeft,
    hd.only⟩

end Sys2Proof.Proofs

/-!
The outcome field (10_state.md R41). Every operation under the meanings does the same to a state with another outcome,
and keeps it; a call then overwrites it.
-/
namespace Sys2Proof.Proofs
open Machine

/-- The state with another outcome. -/
def withOutcome (o : Option OpOutcome) (s : State) : State := { s with outcome := o }

section
variable (c : Params) (o : Option OpOutcome) (s : State)

theorem reply_withOutcome (v : Value) : reply v (withOutcome o s) = reply v s := rfl

theorem replyError_withOutcome (e : OpError) : replyError e (withOutcome o s) = replyError e s := rfl

theorem raiseFault_withOutcome (f : FaultCode) : raiseFault f (withOutcome o s) = raiseFault f s := rfl

theorem replyOrFault_withOutcome (f : Option FaultCode) (v : Value) :
    replyOrFault f v (withOutcome o s) = replyOrFault f v s := by
  cases f <;> rfl

theorem setHolder_withOutcome (b : Bitstream) : setHolder b (withOutcome o s) = withOutcome o (setHolder b s) := rfl

theorem setNumdev_withOutcome (d : Option Nat) : setNumdev d (withOutcome o s) = withOutcome o (setNumdev d s) := rfl

theorem setIdcodes_withOutcome (bs : List Bitstream) :
    setIdcodes bs (withOutcome o s) = withOutcome o (setIdcodes bs s) := rfl

theorem withOutcome_tap : (withOutcome o s).tap = s.tap := rfl

theorem pulses_withOutcome (n : Nat) : pulses c n (withOutcome o s) = withOutcome o (pulses c n s) := by
  induction n generalizing s with
  | zero => rfl
  | succ n ih => exact ih (pulse c s)

theorem followRoute_withOutcome (ts : List Bit) :
    followRoute c ts (withOutcome o s) = withOutcome o (followRoute c ts s) := by
  induction ts generalizing s with
  | nil => rfl
  | cons t ts ih => exact ih (stepTap c t s)

theorem gotoTap_withOutcome (d : TapState) : gotoTap c d (withOutcome o s) = withOutcome o (gotoTap c d s) :=
  followRoute_withOutcome c o s (route s.tap d)

theorem gotoEach_withOutcome (ds : List TapState) :
    gotoEach c ds (withOutcome o s) = withOutcome o (gotoEach c ds s) := by
  induction ds generalizing s with
  | nil => rfl
  | cons d ds ih => rw [gotoEach, gotoTap_withOutcome, ih, gotoEach]

theorem initTap_withOutcome : initTap c (withOutcome o s) = withOutcome o (initTap c s) := rfl

theorem gotoNext_withOutcome (d : StateOperand) :
    gotoNext c d (withOutcome o s) = (withOutcome o (gotoNext c d s).1, (gotoNext c d s).2) := by
  cases d with
  | invalid => rfl
  | state d =>
    rw [gotoNext, gotoNext, withOutcome_tap]
    cases levelTo s.tap d <;> rfl

theorem goThru_withOutcome (ds : List StateOperand) :
    goThru c ds (withOutcome o s) = (withOutcome o (goThru c ds s).1, (goThru c ds s).2) := by
  induction ds generalizing s with
  | nil => rfl
  | cons d ds ih =>
    rw [goThru, goThru, gotoNext_withOutcome]
    rcases gotoNext c d s with ⟨u, _ | f⟩
    · exact ih u
    · rfl

theorem shift_withOutcome (x : Bit) (bits : List Bit) :
    shift c x bits (withOutcome o s) = ((shift c x bits s).1, withOutcome o (shift c x bits s).2) := by
  induction bits generalizing s with
  | nil => rfl
  | cons b rest ih =>
    have next := ih (shiftStep c b (x && rest.isEmpty) s)
    have next' : shift c x rest (shiftStep c b (x && rest.isEmpty) (withOutcome o s)) = _ := next
    simp only [shift, next']
    rfl

theorem scan_withOutcome (send recv : Bitstream) (x : Bit) : scan c send recv x (withOutcome o s) =
    ((scan c send recv x s).1, withOutcome o (scan c send recv x s).2) := by
  rw [scan, shift_withOutcome]
  rfl

theorem irPhase_withOutcome (i : Bitstream) : irPhase c i (withOutcome o s) = withOutcome o (irPhase c i s) := by
  rw [irPhase, irPhase]
  split
  · rfl
  · rw [gotoTap_withOutcome, scan_withOutcome, gotoTap_withOutcome]

theorem drPhase_withOutcome (send recv : Bitstream) : drPhase c send recv (withOutcome o s) =
    ((drPhase c send recv s).1, withOutcome o (drPhase c send recv s).2) := by
  rw [drPhase, drPhase]
  split
  · rfl
  · simp only [gotoTap_withOutcome, scan_withOutcome]

theorem loadIrDr_withOutcome (i send recv : Bitstream) : loadIrDr c i send recv (withOutcome o s) =
    ((loadIrDr c i send recv s).1, withOutcome o (loadIrDr c i send recv s).2) := by
  simp only [loadIrDr, irPhase_withOutcome, drPhase_withOutcome, gotoTap_withOutcome]

theorem scanRegister_withOutcome (a e : TapState) (bits : Bitstream) :
    scanRegister c a e bits (withOutcome o s) = withOutcome o (scanRegister c a e bits s) := by
  simp only [scanRegister, gotoTap_withOutcome, scan_withOutcome]

theorem runTest_withOutcome (n : Nat) : runTest c n (withOutcome o s) = withOutcome o (runTest c n s) :=
  congrArg (updateTap n) (pulses_withOutcome c o (setTms (s.tap == .testLogicReset) s) n)

theorem countDevices_withOutcome :
    countDevices c (withOutcome o s) = ((countDevices c s).1, withOutcome o (countDevices c s).2) := by
  simp only [countDevices, countCapture, initTap_withOutcome, loadIrDr_withOutcome, setNumdev_withOutcome]

theorem numberOfDevices_withOutcome : numberOfDevices c (withOutcome o s) = numberOfDevices c s := by
  rw [numberOfDevices, numberOfDevices, countDevices_withOutcome]
  generalize countDevices c s = r
  rfl

theorem idcodes_withOutcome : idcodes c (withOutcome o s) = idcodes c s := by
  rw [idcodes, idcodes, countDevices_withOutcome]
  generalize countDevices c s = r
  rcases r with ⟨_ | _ | d, u⟩
  · rfl
  · rfl
  · simp only [idcodeCapture, initTap_withOutcome, loadIrDr_withOutcome, setIdcodes_withOutcome, reply_withOutcome]

theorem sendRecv_withOutcome (send recv : Bitstream) (x : Bit) :
    sendRecv c send recv x (withOutcome o s) = sendRecv c send recv x s := by
  simp only [sendRecv, withOutcome_tap, scan_withOutcome, setHolder_withOutcome, reply_withOutcome,
    raiseFault_withOutcome]

theorem loadIrThenDr_withOutcome (i send recv : Bitstream) :
    loadIrThenDr c i send recv (withOutcome o s) = loadIrThenDr c i send recv s := by
  simp only [loadIrThenDr, withOutcome_tap, loadIrDr_withOutcome, setHolder_withOutcome, reply_withOutcome,
    raiseFault_withOutcome]

end

theorem onCall_withOutcome {s : State} {o : Option OpOutcome} {f : State → State} (h : f (withOutcome o s) = f s) :
    onCall (withOutcome o s) f = onCall s f := by
  rw [onCall, onCall, h]
  rfl

theorem onCommand_withOutcome {s : State} {o : Option OpOutcome} {f : State → State}
    (h : f (withOutcome o s) = withOutcome o (f s)) :
    onCommand (withOutcome o s) f = mapNext (withOutcome o) (onCommand s f) := by
  rw [onCommand, onCommand, h, show (withOutcome o s).fault = s.fault from rfl]
  cases s.fault <;> rfl

/-- A call gives the very same result. -/
theorem exec_call_withOutcome (i : Instr) (s : State) (o : Option OpOutcome) (hi : i.isSvf = false) :
    exec i (withOutcome o s) = exec i s := by
  cases i
  case trst | pio | piomap | frequency | endir | enddr | state | hir | hdr | tir | tdr | sir | sdr | runtest =>
    cases hi
  all_goals simp only [exec]
  case getNumberOfDevices => exact onCall_withOutcome (numberOfDevices_withOutcome ..)
  case getIdcodes => exact onCall_withOutcome (idcodes_withOutcome ..)
  case sendRecvBitstream => exact onCall_withOutcome (sendRecv_withOutcome ..)
  case loadIrThenDr => exact onCall_withOutcome (loadIrThenDr_withOutcome ..)
  case pulseTck n => exact onCall_withOutcome (by rw [pulses_withOutcome, reply_withOutcome])
  case gotoNextState d =>
    exact onCall_withOutcome (by rw [gotoNext_withOutcome, replyOrFault_withOutcome])
  case goThruTapSequence ds =>
    exact onCall_withOutcome (by rw [goThru_withOutcome, replyOrFault_withOutcome])
  case gotoState d =>
    cases d with
    | invalid => exact onCall_withOutcome rfl
    | state d => exact onCall_withOutcome (by simp only [gotoTap_withOutcome, reply_withOutcome])
  all_goals exact onCall_withOutcome rfl

/-- A command gives the same with the outcome kept. -/
theorem exec_command_withOutcome (i : Instr) (s : State) (o : Option OpOutcome) (hi : i.isSvf = true) :
    exec i (withOutcome o s) = mapNext (withOutcome o) (exec i s) := by
  cases i
  all_goals simp only [exec]
  case trst | pio | piomap | frequency | endir | enddr | hir | hdr | tir | tdr => exact onCommand_withOutcome rfl
  case state => exact onCommand_withOutcome (gotoEach_withOutcome ..)
  case sir | sdr => exact onCommand_withOutcome (scanRegister_withOutcome ..)
  case runtest => exact onCommand_withOutcome (runTest_withOutcome ..)
  all_goals cases hi

/-- Settles O18. -/
theorem outcomeIsNotRead : Obligations.OutcomeIsNotRead := fun i s o =>
  ⟨exec_call_withOutcome i s o, exec_command_withOutcome i s o⟩

end Sys2Proof.Proofs

/-! How comments are stripped (30_encoding.md R95). -/
namespace Sys2Proof.Proofs
open Machine

/-- What stands before the first comment mark of a line is kept. -/
theorem stripComments_kept (a rest : List Byte) (ha : a.all (fun x => x != lineFeed && x != bang) = true)
    (hs : hasDoubleSlash (a ++ rest.take 1) = false) :
    stripComments (a ++ rest) = a ++ stripComments rest := by
  induction a with
  | nil => rfl
  | cons x a ih =>
    simp only [List.all_cons, Bool.and_eq_true, bne_iff_ne] at ha
    obtain ⟨⟨hline, hbang⟩, ha⟩ := ha
    rw [List.cons_append, hasDoubleSlash, Bool.or_eq_false_iff] at hs
    have head : (a ++ rest).head? = (a ++ rest.take 1).head? := by
      rw [List.head?_append, List.head?_append, List.head?_take, if_neg Nat.one_ne_zero]
    rw [stripComments] at ih
    rw [List.cons_append, stripComments, stripFrom, if_neg hline, if_neg Bool.false_ne_true, head, hs.1,
      if_neg (by simp [hbang]), ih ha hs.2, List.cons_append, stripComments]

theorem stripComments_lineFeed (c : List Byte) : stripComments (lineFeed :: c) = lineFeed :: stripComments c := rfl

theorem stripComments_bang (b : List Byte) : stripComments (bang :: b) = stripFrom true b := rfl

theorem stripComments_doubleSlash (b : List Byte) : stripComments (slash :: slash :: b) = stripFrom true b := rfl

/-- A comment goes on to the end of its line. -/
theorem stripFrom_comment (b rest : List Byte) (hb : b.all (fun x => x != lineFeed) = true) :
    stripFrom true (b ++ rest) = stripFrom true rest := by
  induction b with
  | nil => rfl
  | cons x b ih =>
    simp only [List.all_cons, Bool.and_eq_true, bne_iff_ne] at hb
    rw [List.cons_append, stripFrom, if_neg hb.1, if_pos rfl, ih hb.2]

theorem stripFrom_comment_end (b : List Byte) (hb : b.all (fun x => x != lineFeed) = true) :
    stripFrom true b = [] := by
  simpa [stripFrom] using stripFrom_comment b [] hb

theorem stripFrom_comment_line (b c : List Byte) (hb : b.all (fun x => x != lineFeed) = true) :
    stripFrom true (b ++ lineFeed :: c) = lineFeed :: stripComments c :=
  stripFrom_comment b (lineFeed :: c) hb

/-- Settles O4: the text before the mark is kept, and the comment is passed over byte by byte. -/
theorem commentsAreStripped : Obligations.CommentsAreStripped := by
  intro a b c ha hb
  refine ⟨fun hs => ?_, fun hs => ?_⟩
  · have kept (x : Byte) (rest : List Byte) (hx : x ≠ slash) :
        stripComments (a ++ x :: rest) = a ++ stripComments (x :: rest) :=
      stripComments_kept a (x :: rest) ha <| by
        rw [hasDoubleSlash_append _ _ (by simpa using hx), hs]
        simp [hasDoubleSlash]
    refine ⟨?_, ?_, ?_, ?_⟩
    · simpa [stripComments, stripFrom] using stripComments_kept a [] ha (by simpa using hs)
    · rw [kept _ _ (by decide), stripComments_lineFeed]
    · rw [kept _ _ (by decide), stripComments_bang, stripFrom_comment_end b hb, List.append_nil]
    · rw [List.append_assoc, List.cons_append, kept _ _ (by decide), stripComments_bang,
        stripFrom_comment_line b c hb]
  · have kept (rest : List Byte) :
        stripComments (a ++ slash :: slash :: rest) = a ++ stripFrom true rest :=
      stripComments_kept a (slash :: slash :: rest) ha hs
    refine ⟨?_, ?_⟩
    · rw [kept, stripFrom_comment_end b hb, List.append_nil]
    · rw [List.append_assoc, List.cons_append, List.cons_append, kept, stripFrom_comment_line b c hb]

end Sys2Proof.Proofs

/-! The errors of malformed commands (30_encoding.md R98, R100, R103 to R105, R107 to R111). -/
namespace Sys2Proof.Proofs
open Machine

theorem wrongToken_eq (e : SvfError) (t : Token) : wrongToken e t = if t.isUnclosed then .badHexField else e := by
  cases t <;> rfl

/-- The keywords of the commands that hold a scan-field list. -/
def fieldKeywords : List SvfKeyword := [.hir, .hdr, .tir, .tdr, .sir, .sdr]

section
variable (optional : OptionalFields)

theorem decodeSvfTokens_keyword (k : SvfKeyword) (ts : List Token) :
    decodeSvfTokens optional (.word k.text :: ts) = decodeSvfOperands optional ts k := by
  rw [decodeSvfTokens, svfKeyword_ofToken_text]

/-! ### Keywords and their operands -/

theorem ofToken_eq_none {t : Token} (h : ∀ k : SvfKeyword, t ≠ .word k.text) : SvfKeyword.ofToken? t = none := by
  cases t with
  | word w => exact List.find?_eq_none.2 fun k _ hk => h k (by rw [eq_of_beq hk])
  | paren x => rfl
  | unclosed x => rfl

theorem decodeSvfTokens_unknown {t : Token} (ts : List Token) (h : ∀ k : SvfKeyword, t ≠ .word k.text) :
    decodeSvfTokens optional (t :: ts) = .error (wrongToken .unknownCommand t) := by
  rw [decodeSvfTokens, ofToken_eq_none h]

theorem decodeSvfTokens_bare {k : SvfKeyword} (hk : k ∉ [.trst, .pio, .piomap, .frequency]) :
    decodeSvfTokens optional [.word k.text] = .error .missingField := by
  rw [decodeSvfTokens_keyword]
  cases k
  case trst | pio | piomap | frequency => exact absurd hk (by decide)
  all_goals rfl

theorem decodeSvfTokens_ignored {k : SvfKeyword} (hk : k ∈ [.trst, .pio, .piomap, .frequency]) {ts : List Token}
    (hts : ∃ x ∈ ts, x.isUnclosed = true) :
    decodeSvfTokens optional (.word k.text :: ts) = .error .badHexField := by
  have ignored (mk : List Token → Instr) : decodeIgnored mk ts = .error .badHexField :=
    if_pos (List.any_eq_true.2 hts)
  rw [decodeSvfTokens_keyword]
  simp only [List.mem_cons, List.not_mem_nil, or_false] at hk
  rcases hk with rfl | rfl | rfl | rfl <;> exact ignored _

theorem decodeOneState_badName (mk : TapState → Instr) {t : Token} (ts : List Token) (ht : stateName? t = none) :
    decodeOneState mk (t :: ts) = .error (wrongToken .badStateName t) := by
  rw [decodeOneState, ht]

theorem decodeOneState_tooMany (mk : TapState → Instr) (d : TapState) (t : Token) (ts : List Token) :
    decodeOneState mk (stateNameToken d :: t :: ts) = .error (wrongToken .unexpectedToken t) := by
  rw [decodeOneState, stateName_stateNameToken]
  rfl

theorem decodeEndCommand {k : SvfKeyword} (hk : k ∈ [.endir, .enddr]) :
    ∃ mk : TapState → Instr, ∀ ts, decodeSvfTokens optional (.word k.text :: ts) = decodeOneState mk ts := by
  simp only [List.mem_cons, List.not_mem_nil, or_false] at hk
  rcases hk with rfl | rfl
  · exact ⟨.endir, decodeSvfTokens_keyword optional .endir⟩
  · exact ⟨.enddr, decodeSvfTokens_keyword optional .enddr⟩

theorem decodeStates_badName (ds : List TapState) {t : Token} (ts : List Token) (ht : stateName? t = none) :
    decodeStates (ds.map stateNameToken ++ t :: ts) = .error (wrongToken .badStateName t) := by
  induction ds with
  | nil =>
    rw [List.map_nil, List.nil_append, decodeStates, ht]
  | cons d ds ih =>
    rw [List.map_cons, List.cons_append, decodeStates, stateName_stateNameToken]
    dsimp only
    rw [ih]
    rfl

theorem decodeState_badName (ds : List TapState) {t : Token} (ts : List Token) (ht : stateName? t = none) :
    decodeSvfTokens optional (.word SvfKeyword.state.text :: (ds.map stateNameToken ++ t :: ts)) =
      .error (wrongToken .badStateName t) := by
  rw [decodeSvfTokens_keyword, decodeSvfOperands, decodeStateList, decodeStates_badName ds ts ht]

/-! ### RUNTEST -/

theorem decodeRuntest_badNumber {t : Token} (ts : List Token) (ht : svfNumber? t = none) :
    decodeRuntest (t :: ts) = .error (wrongToken .badNumber t) := by
  rw [decodeRuntest, ht]

section
variable {u : Token} {n : Nat} (hu : svfNumber? u = some n)
include hu

theorem decodeRuntest_missing : decodeRuntest [u] = .error .missingField := by
  rw [decodeRuntest, hu]

theorem decodeRuntest_notTck {t : Token} (ts : List Token) (ht : t ≠ .word (chars ['T', 'C', 'K'])) :
    decodeRuntest (u :: t :: ts) = .error (wrongToken .unexpectedToken t) := by
  rw [decodeRuntest, hu]
  exact if_neg ht

theorem decodeRuntest_tooMany (t : Token) (ts : List Token) :
    decodeRuntest (u :: .word (chars ['T', 'C', 'K']) :: t :: ts) = .error (wrongToken .unexpectedToken t) := by
  rw [decodeRuntest, hu]
  rfl

end

/-! ### Commands with a scan-field list -/

variable {optional}

/-- The error of the number or of the list is the error of the command. -/
theorem fieldCommand_error {k : SvfKeyword} (hk : k ∈ fieldKeywords) {ts : List Token} {e : SvfError}
    (h : decodeNumberAndFields optional ts = .error e) :
    decodeSvfTokens optional (.word k.text :: ts) = .error e := by
  have context (mk : Nat → Option (List Nibble) → OptFields → Instr) : decodeContext optional mk ts = .error e := by
    rw [decodeContext, h]
    rfl
  have scan (mk : Nat → List Nibble → OptFields → Instr) : decodeScan optional mk ts = .error e := by
    rw [decodeScan, h]
  rw [decodeSvfTokens_keyword]
  simp only [fieldKeywords, List.mem_cons, List.not_mem_nil, or_false] at hk
  rcases hk with rfl | rfl | rfl | rfl | rfl | rfl
  · exact context .hir
  · exact context .hdr
  · exact context .tir
  · exact context .tdr
  · exact scan .sir
  · exact scan .sdr

theorem decodeNumberAndFields_badNumber {t : Token} (ts : List Token) (ht : svfNumber? t = none) :
    decodeNumberAndFields optional (t :: ts) = .error (wrongToken .badNumber t) := by
  rw [decodeNumberAndFields, ht]

theorem decodeNumberAndFields_eq {u : Token} {n : Nat} (hu : svfNumber? u = some n) (rest : List Token) :
    decodeNumberAndFields optional (u :: rest) =
      (decodeFields optional rest ⟨none, []⟩).map fun f => (n, f) := by
  rw [decodeNumberAndFields, hu]

theorem decodeFields_notName {t : Token} (ts : List Token) (f : ScanFields) (ht : ∀ n, t ≠ .word (fieldText n)) :
    decodeFields optional (t :: ts) f = .error (wrongToken .unexpectedToken t) := by
  cases t with
  | word w =>
    have noName : fieldName? w = none :=
      Option.eq_none_iff_forall_ne_some.2 fun n hn => ht n (by rw [(fieldName_eq_some_iff w n).1 hn])
    rw [decodeFields, noName]
    rfl
  | paren x => rfl
  | unclosed x => rfl

section
variable {u : Token} {n : Nat} (hu : svfNumber? u = some n) {fs : List (Option OptField × List Byte)}
  (hfs : fieldListReadable optional fs)
include hu hfs

/-- A list without an error is read, and what follows it is read with the list's names known. -/
theorem decodeNumberAndFields_list (rest : List Token) : ∃ g : ScanFields,
    decodeNumberAndFields optional (u :: (fieldListTokens fs ++ rest)) =
      (decodeFields optional rest g).map (fun f => (n, f)) ∧ ∀ m, g.has m = true ↔ m ∈ fs.map Prod.fst := by
  have none_read (m : Option OptField) : ScanFields.has ⟨none, []⟩ m = false := by cases m <;> rfl
  obtain ⟨g, read, names⟩ := decodeFields_fieldListTokens optional fs rest ⟨none, []⟩ hfs fun m _ => none_read m
  exact ⟨g, by rw [decodeNumberAndFields_eq hu, read], fun m => by simp [names, none_read]⟩

/-- The first error after a list without an error is the error of the command. -/
theorem fieldCommand_after_list {k : SvfKeyword} (hk : k ∈ fieldKeywords) {rest : List Token} {e : SvfError}
    (h : ∀ g : ScanFields, (∀ m, g.has m = true ↔ m ∈ fs.map Prod.fst) → decodeFields optional rest g = .error e) :
    decodeSvfTokens optional (.word k.text :: u :: (fieldListTokens fs ++ rest)) = .error e := by
  obtain ⟨g, read, names⟩ := decodeNumberAndFields_list hu hfs rest
  exact fieldCommand_error hk (by rw [read, h g names]; rfl)

/-- TDI is missed after the whole list of a scan is read. -/
theorem scanCommand_without_tdi {k : SvfKeyword} (hk : k ∈ [.sir, .sdr]) (htdi : none ∉ fs.map Prod.fst) :
    decodeSvfTokens optional (.word k.text :: u :: (fieldListTokens fs ++ [])) = .error .missingField := by
  obtain ⟨g, read, names⟩ := decodeNumberAndFields_list hu hfs []
  have tdi : g.tdi = none := Option.not_isSome_iff_eq_none.1 fun h => htdi ((names none).1 h)
  have scan (mk : Nat → List Nibble → OptFields → Instr) :
      decodeScan optional mk (u :: (fieldListTokens fs ++ [])) = .error .missingField := by
    rw [decodeScan, read, decodeFields]
    simp only [Except.map, tdi]
  rw [decodeSvfTokens_keyword]
  simp only [List.mem_cons, List.not_mem_nil, or_false] at hk
  rcases hk with rfl | rfl
  · exact scan .sir
  · exact scan .sdr

end

/-- A name the list does not hold, and that is not rejected, is allowed after it. -/
theorem fieldAllowed_after_list {g : ScanFields} {names : List (Option OptField)}
    (hg : ∀ m, g.has m = true ↔ m ∈ names) {f : Option OptField} (hf : f ∉ names)
    (kept : f = none ∨ optional = .ignore) : fieldAllowed optional g f := by
  refine ⟨Bool.not_eq_true _ ▸ mt (hg f).1 hf, fun reject => kept.resolve_right ?_⟩
  rintro rfl
  cases reject

end

/-- Settles O5: each clause is the lemma above that reads the tokens before the error. -/
theorem malformedCommandsAreNamed : Obligations.MalformedCommandsAreNamed := by
  intro optional t ts at_
  have at_eq (e : SvfError) : at_ e = .error (wrongToken e t) := by rw [wrongToken_eq]
  simp only [at_eq]
  refine ⟨rfl, decodeSvfTokens_unknown optional ts, fun k => decodeSvfTokens_bare optional,
    fun k hk => decodeSvfTokens_ignored optional hk, fun k hk => ?_, fun ds => decodeState_badName optional ds ts,
    fun k hk ht => ?_, fun u n hu => ⟨?_, fun k hk fs hfs => ?_⟩⟩
  · obtain ⟨mk, end_⟩ := decodeEndCommand optional hk
    simp only [end_]
    exact ⟨decodeOneState_badName mk ts, fun d => decodeOneState_tooMany mk d t ts⟩
  · rcases List.mem_append.1 (show k ∈ fieldKeywords ++ [.runtest] from hk) with hk | hk
    · exact fieldCommand_error hk (decodeNumberAndFields_badNumber ts ht)
    · rw [List.mem_singleton.1 hk, decodeSvfTokens_keyword]
      exact decodeRuntest_badNumber ts ht
  · simp only [decodeSvfTokens_keyword]
    exact ⟨decodeRuntest_missing hu, decodeRuntest_notTck hu ts, decodeRuntest_tooMany hu t ts⟩
  · refine ⟨fun ht => ?_, fun f hf => ?_, fun f hf => ⟨fun named reject => ?_, fun kept => ⟨?_, fun ht => ?_⟩⟩,
      scanCommand_without_tdi hu hfs⟩
    · exact fieldCommand_after_list hu hfs hk fun g _ => decodeFields_notName ts g ht
    · exact fieldCommand_after_list hu hfs hk fun g hg => decodeFields_duplicate ts ((hg f).2 hf)
    · subst reject
      exact fieldCommand_after_list hu hfs hk fun g hg =>
        decodeFields_rejected ts (Bool.not_eq_true _ ▸ mt (hg f).1 hf) named
    · exact fieldCommand_after_list hu hfs hk fun g hg =>
        decodeFields_missing (fieldAllowed_after_list hg hf kept)
    · exact fieldCommand_after_list hu hfs hk fun g hg =>
        decodeFields_badHex ts ht (fieldAllowed_after_list hg hf kept)

end Sys2Proof.Proofs
